-- ==== Sys2Proof/Word.lean ====
section
/-! DEFINITION. The word types of the core: the widths of 00_scope.md R8 and of the instruction fields of
30_encoding.md R81. All values are unsigned (00_scope.md R11). -/

namespace Sys2Proof

/-- A byte of memory, a general register, a timer, the NN field. -/
abbrev Byte := BitVec 8

/-- An instruction word, PC, I, a stack slot. -/
abbrev Word := BitVec 16

/-- A register index (fields X and Y), a sprite height (field N), a key. -/
abbrev Nibble := BitVec 4

/-- The 12-bit address field NNN. -/
abbrev Addr := BitVec 12

end Sys2Proof
end

