-- ==== Sys2Proof/Config.lean ====
section
/-! DEFINITION. The implementation parameters the document leaves open (00_scope.md R9), which a model takes as
configuration fields, and the free random byte of a CYCLE (47_interface.md R233). -/

namespace Sys2Proof

/-- 43_alu.md R156: in which order 8XY4-8XY7 and 8XYE write VF and V[X]. OPEN (92_eei_decisions.md D14). -/
inductive VfOrder where
  /-- The result is written, then the flag; both are computed before. -/
  | flagLast
  /-- The flag is written, then the result; both are computed before. -/
  | resultLast
  /-- The flag is computed and written, and the result is computed after that. -/
  | flagFirstSeq
  deriving DecidableEq, Repr

/-- 45_display.md R203: what happens to sprite pixels beyond the right or the bottom edge. -/
inductive DrawEdge where
  /-- Coordinates are taken modulo 64 and 32. -/
  | wrap
  /-- The pixel is not drawn. -/
  | clip
  deriving DecidableEq, Repr

/-- The five parameters of 00_scope.md R9, held in the field `cfg` of the state (log entry 1). -/
structure Config where
  /-- FONT_BASE, with the constraint FONT_BASE + 80 ≤ 0x200 checked by `Config.wellFormed` (10_state.md R34). -/
  fontBase : Nat
  /-- FONT_GLYPHS: 16 glyphs of 5 rows, top row first (10_state.md R33). -/
  fontGlyphs : Vector (Vector Byte 5) 16
  /-- VF_ORDER (43_alu.md R156). -/
  vfOrder : VfOrder
  /-- DRAW_EDGE (45_display.md R203). -/
  drawEdge : DrawEdge
  /-- I_ADVANCE (44_index_memory.md R186, R187). -/
  iAdvance : Bool
  deriving DecidableEq, Repr

/-- The FREE random bytes: the `n`-th byte the host supplies with a CYCLE that is not written out as a command.
No body: no law holds of it (43_alu.md R162: "a free draw under no law"; log entry 6). -/
opaque Config.draw : Nat → Byte

end Sys2Proof
end

