-- ==== Sys2Proof/WellFormed.lean ====
section
/-! DEFINITION. What is well formed: a row of the opcode table and the whole table (30_encoding.md R84, R88), an
instruction (R86, R87) and the implementation parameters (10_state.md R34). Field widths are checked by the operand
types of `Instr`, so the check on instructions refuses none of them, as R87 says. -/

namespace Sys2Proof

/-- A row of spec/opcode_table.json: a word `op` encodes the row's instruction exactly when `op & mask = bits`
(30_encoding.md R88; `bits` is the table's "match"). -/
structure Row where
  mask : Word
  bits : Word
  deriving DecidableEq, Repr

/-- The word `op` lies in the row (R88). -/
def Row.admits (r : Row) (op : Word) : Bool := op &&& r.mask == r.bits

/-- R88: the mask is one of the table's four, and the fixed bits lie inside it. -/
def Row.wellFormed (r : Row) : Bool :=
  ([0xFFFF, 0xF000, 0xF00F, 0xF0FF] : List Word).contains r.mask && r.bits &&& ~~~r.mask == 0

/-- No word lies in both rows: they fix some common bit differently. -/
def Row.disjoint (r q : Row) : Bool := (r.bits ^^^ q.bits) &&& (r.mask &&& q.mask) != 0

/-- The rows are well formed and no word lies in two of them (R88: "No word matches two rows"). -/
def tableWellFormed (t : List Row) : Bool :=
  t.all Row.wellFormed && decide (t.Pairwise fun r q => r.disjoint q = true)

/-- The row of the opcode table that an instruction belongs to. -/
def Instr.row : Instr → Row
  | .cls => ⟨0xFFFF, 0x00E0⟩
  | .ret => ⟨0xFFFF, 0x00EE⟩
  | .jp _ => ⟨0xF000, 0x1000⟩
  | .call _ => ⟨0xF000, 0x2000⟩
  | .seImm _ _ => ⟨0xF000, 0x3000⟩
  | .sneImm _ _ => ⟨0xF000, 0x4000⟩
  | .seReg _ _ => ⟨0xF00F, 0x5000⟩
  | .ldImm _ _ => ⟨0xF000, 0x6000⟩
  | .addImm _ _ => ⟨0xF000, 0x7000⟩
  | .ldReg _ _ => ⟨0xF00F, 0x8000⟩
  | .or _ _ => ⟨0xF00F, 0x8001⟩
  | .and _ _ => ⟨0xF00F, 0x8002⟩
  | .xor _ _ => ⟨0xF00F, 0x8003⟩
  | .addReg _ _ => ⟨0xF00F, 0x8004⟩
  | .sub _ _ => ⟨0xF00F, 0x8005⟩
  | .shr _ _ => ⟨0xF00F, 0x8006⟩
  | .subn _ _ => ⟨0xF00F, 0x8007⟩
  | .shl _ _ => ⟨0xF00F, 0x800E⟩
  | .sneReg _ _ => ⟨0xF00F, 0x9000⟩
  | .ldI _ => ⟨0xF000, 0xA000⟩
  | .jpV0 _ => ⟨0xF000, 0xB000⟩
  | .rnd _ _ => ⟨0xF000, 0xC000⟩
  | .drw _ _ _ => ⟨0xF000, 0xD000⟩
  | .skp _ => ⟨0xF0FF, 0xE09E⟩
  | .sknp _ => ⟨0xF0FF, 0xE0A1⟩
  | .ldVxDt _ => ⟨0xF0FF, 0xF007⟩
  | .ldVxK _ => ⟨0xF0FF, 0xF00A⟩
  | .ldDtVx _ => ⟨0xF0FF, 0xF015⟩
  | .ldStVx _ => ⟨0xF0FF, 0xF018⟩
  | .addIVx _ => ⟨0xF0FF, 0xF01E⟩
  | .ldFVx _ => ⟨0xF0FF, 0xF029⟩
  | .ldBVx _ => ⟨0xF0FF, 0xF033⟩
  | .ldMemVx _ => ⟨0xF0FF, 0xF055⟩
  | .ldVxMem _ => ⟨0xF0FF, 0xF065⟩

/-- The opcode table: the rows of the 34 instructions in the table's order (30_encoding.md R86, R88). -/
def opcodeTable : List Row :=
  [⟨0xFFFF, 0x00E0⟩, ⟨0xFFFF, 0x00EE⟩, ⟨0xF000, 0x1000⟩, ⟨0xF000, 0x2000⟩, ⟨0xF000, 0x3000⟩, ⟨0xF000, 0x4000⟩]
  ++ [⟨0xF00F, 0x5000⟩, ⟨0xF000, 0x6000⟩, ⟨0xF000, 0x7000⟩, ⟨0xF00F, 0x8000⟩, ⟨0xF00F, 0x8001⟩, ⟨0xF00F, 0x8002⟩]
  ++ [⟨0xF00F, 0x8003⟩, ⟨0xF00F, 0x8004⟩, ⟨0xF00F, 0x8005⟩, ⟨0xF00F, 0x8006⟩, ⟨0xF00F, 0x8007⟩, ⟨0xF00F, 0x800E⟩]
  ++ [⟨0xF00F, 0x9000⟩, ⟨0xF000, 0xA000⟩, ⟨0xF000, 0xB000⟩, ⟨0xF000, 0xC000⟩, ⟨0xF000, 0xD000⟩, ⟨0xF0FF, 0xE09E⟩]
  ++ [⟨0xF0FF, 0xE0A1⟩, ⟨0xF0FF, 0xF007⟩, ⟨0xF0FF, 0xF00A⟩, ⟨0xF0FF, 0xF015⟩, ⟨0xF0FF, 0xF018⟩, ⟨0xF0FF, 0xF01E⟩]
  ++ [⟨0xF0FF, 0xF029⟩, ⟨0xF0FF, 0xF033⟩, ⟨0xF0FF, 0xF055⟩, ⟨0xF0FF, 0xF065⟩]

/-- An instruction is well formed when its row is a well-formed row of the table (R86, R87: no field value makes it
illegal). -/
def Instr.wellFormed (i : Instr) : Bool := opcodeTable.contains i.row && i.row.wellFormed

/-- The parameters are well formed when the font fits below 0x200 (10_state.md R34: FONT_BASE + 80 ≤ 0x200). -/
def Config.wellFormed (c : Config) : Bool := decide (c.fontBase + 80 ≤ 0x200)

end Sys2Proof
end

