-- ==== Sys2Proof/Decode.lean ====
section
/-! DEFINITION. The decoder of 30_encoding.md R85, total on every word, and the encoder written from the field
layouts of R81 and the opcode map of R84; the fetch's byte order (20_memory.md R56). -/

namespace Sys2Proof

/-! ## Fields and byte order -/

/-- op[15:12], the family nibble (R81). -/
def family (op : Word) : Nibble := op.extractLsb' 12 4
/-- X = op[11:8]. -/
def fieldX (op : Word) : Nibble := op.extractLsb' 8 4
/-- Y = op[7:4]. -/
def fieldY (op : Word) : Nibble := op.extractLsb' 4 4
/-- N = op[3:0]. -/
def fieldN (op : Word) : Nibble := op.extractLsb' 0 4
/-- NN = op[7:0]. -/
def fieldNN (op : Word) : Byte := op.extractLsb' 0 8
/-- NNN = op[11:0]. -/
def fieldNNN (op : Word) : Addr := op.extractLsb' 0 12

/-- Big-endian: the byte at the lower address is the high one, op = hi × 256 + lo (20_memory.md R56). -/
def joinBytes (hi lo : Byte) : Word := BitVec.ofNat 16 (hi.toNat * 256 + lo.toNat)
/-- The byte of a word stored at the lower address. -/
def highByte (op : Word) : Byte := op.extractLsb' 8 8
/-- The byte of a word stored at the higher address. -/
def lowByte (op : Word) : Byte := op.extractLsb' 0 8

/-! ## Decoding -/

/-- What a word decodes to: an instruction, or Unknown, which carries the word itself (R83, R95 (4)). -/
inductive Decoded where
  | instr (i : Instr)
  | unknown (op : Word)
  deriving DecidableEq, Repr

/-- Family 8, selected by N (R84, R85). -/
def decodeAlu (op : Word) : Decoded :=
  let x := fieldX op
  let y := fieldY op
  let n := fieldN op
  if n = 0x0 then .instr (.ldReg x y)
  else if n = 0x1 then .instr (.or x y)
  else if n = 0x2 then .instr (.and x y)
  else if n = 0x3 then .instr (.xor x y)
  else if n = 0x4 then .instr (.addReg x y)
  else if n = 0x5 then .instr (.sub x y)
  else if n = 0x6 then .instr (.shr x y)
  else if n = 0x7 then .instr (.subn x y)
  else if n = 0xE then .instr (.shl x y)
  else .unknown op

/-- Family E, selected by NN (R84, R85). -/
def decodeKeySkip (op : Word) : Decoded :=
  if fieldNN op = 0x9E then .instr (.skp (fieldX op))
  else if fieldNN op = 0xA1 then .instr (.sknp (fieldX op))
  else .unknown op

/-- Family F, selected by NN (R84, R85). -/
def decodeMisc (op : Word) : Decoded :=
  let x := fieldX op
  let nn := fieldNN op
  if nn = 0x07 then .instr (.ldVxDt x)
  else if nn = 0x0A then .instr (.ldVxK x)
  else if nn = 0x15 then .instr (.ldDtVx x)
  else if nn = 0x18 then .instr (.ldStVx x)
  else if nn = 0x1E then .instr (.addIVx x)
  else if nn = 0x29 then .instr (.ldFVx x)
  else if nn = 0x33 then .instr (.ldBVx x)
  else if nn = 0x55 then .instr (.ldMemVx x)
  else if nn = 0x65 then .instr (.ldVxMem x)
  else .unknown op

/-- `decode(op)` of R85. -/
def decode (op : Word) : Decoded :=
  let f := family op
  if f = 0x0 then
    if op = 0x00E0 then .instr .cls else if op = 0x00EE then .instr .ret else .unknown op
  else if f = 0x1 then .instr (.jp (fieldNNN op))
  else if f = 0x2 then .instr (.call (fieldNNN op))
  else if f = 0x3 then .instr (.seImm (fieldX op) (fieldNN op))
  else if f = 0x4 then .instr (.sneImm (fieldX op) (fieldNN op))
  else if f = 0x5 then if fieldN op = 0 then .instr (.seReg (fieldX op) (fieldY op)) else .unknown op
  else if f = 0x6 then .instr (.ldImm (fieldX op) (fieldNN op))
  else if f = 0x7 then .instr (.addImm (fieldX op) (fieldNN op))
  else if f = 0x8 then decodeAlu op
  else if f = 0x9 then if fieldN op = 0 then .instr (.sneReg (fieldX op) (fieldY op)) else .unknown op
  else if f = 0xA then .instr (.ldI (fieldNNN op))
  else if f = 0xB then .instr (.jpV0 (fieldNNN op))
  else if f = 0xC then .instr (.rnd (fieldX op) (fieldNN op))
  else if f = 0xD then .instr (.drw (fieldX op) (fieldY op) (fieldN op))
  else if f = 0xE then decodeKeySkip op
  else decodeMisc op

/-- Why a byte sequence holds no instruction at its front. -/
inductive Reject where
  /-- The word lies in the Unknown space (R90). -/
  | unknownOpcode (op : Word)
  /-- Fewer than two bytes are left (R80: a decoder always consumes exactly two). -/
  | tooFewBytes
  deriving DecidableEq, Repr

/-- Decoding over bytes as memory holds them: the instruction and the bytes after it, or a named rejection. -/
def decodeBytes : List Byte → Except Reject (Instr × List Byte)
  | hi :: lo :: rest =>
    match decode (joinBytes hi lo) with
    | .instr i => .ok (i, rest)
    | .unknown op => .error (.unknownOpcode op)
  | _ => .error .tooFewBytes

/-- The instruction the decoder reads from the table word `w` of `nbits` bits, laid out big-endian. -/
def decodeTableWord (nbits w : Nat) : Option Instr :=
  let op : Word := BitVec.ofNat 16 (w % 2 ^ nbits)
  match decodeBytes [highByte op, lowByte op] with
  | .ok (i, _) => some i
  | .error _ => none

/-! ## Encoding -/

/-- The layout NNN of R81. -/
def wordNNN (f : Nibble) (nnn : Addr) : Word := BitVec.ofNat 16 (f.toNat * 4096 + nnn.toNat)
/-- The layouts XNN and Xkk of R81. -/
def wordXNN (f x : Nibble) (nn : Byte) : Word := BitVec.ofNat 16 (f.toNat * 4096 + x.toNat * 256 + nn.toNat)
/-- The layouts XY0, XYn and XYN of R81. -/
def wordXYN (f x y n : Nibble) : Word :=
  BitVec.ofNat 16 (f.toNat * 4096 + x.toNat * 256 + y.toNat * 16 + n.toNat)

/-- The word of an instruction (R81, R84). -/
def encode : Instr → Word
  | .cls => 0x00E0
  | .ret => 0x00EE
  | .jp nnn => wordNNN 0x1 nnn
  | .call nnn => wordNNN 0x2 nnn
  | .seImm x nn => wordXNN 0x3 x nn
  | .sneImm x nn => wordXNN 0x4 x nn
  | .seReg x y => wordXYN 0x5 x y 0x0
  | .ldImm x nn => wordXNN 0x6 x nn
  | .addImm x nn => wordXNN 0x7 x nn
  | .ldReg x y => wordXYN 0x8 x y 0x0
  | .or x y => wordXYN 0x8 x y 0x1
  | .and x y => wordXYN 0x8 x y 0x2
  | .xor x y => wordXYN 0x8 x y 0x3
  | .addReg x y => wordXYN 0x8 x y 0x4
  | .sub x y => wordXYN 0x8 x y 0x5
  | .shr x y => wordXYN 0x8 x y 0x6
  | .subn x y => wordXYN 0x8 x y 0x7
  | .shl x y => wordXYN 0x8 x y 0xE
  | .sneReg x y => wordXYN 0x9 x y 0x0
  | .ldI nnn => wordNNN 0xA nnn
  | .jpV0 nnn => wordNNN 0xB nnn
  | .rnd x nn => wordXNN 0xC x nn
  | .drw x y n => wordXYN 0xD x y n
  | .skp x => wordXNN 0xE x 0x9E
  | .sknp x => wordXNN 0xE x 0xA1
  | .ldVxDt x => wordXNN 0xF x 0x07
  | .ldVxK x => wordXNN 0xF x 0x0A
  | .ldDtVx x => wordXNN 0xF x 0x15
  | .ldStVx x => wordXNN 0xF x 0x18
  | .addIVx x => wordXNN 0xF x 0x1E
  | .ldFVx x => wordXNN 0xF x 0x29
  | .ldBVx x => wordXNN 0xF x 0x33
  | .ldMemVx x => wordXNN 0xF x 0x55
  | .ldVxMem x => wordXNN 0xF x 0x65

/-- The two bytes of an instruction in address order (20_memory.md R56). -/
def encodeBytes (i : Instr) : List Byte := [highByte (encode i), lowByte (encode i)]

end Sys2Proof
end

