-- ==== Sys2Proof/Machine/Params.lean ====
section
/-! DEFINITION. The values the spec gives the implementation parameters (00_scope.md R9, 92_eei_decisions.md "Open
parameters"): decided values, and for VF_ORDER, which is OPEN, the spec's simulator default (log entry 2). -/

namespace Sys2Proof.Machine

/-- FONT_GLYPHS as 10_state.md R33 tabulates it, glyphs 0 to 7. -/
def fontGlyphsLow : List (Vector Byte 5) :=
  [#v[0xF0, 0x90, 0x90, 0x90, 0xF0], #v[0x20, 0x60, 0x20, 0x20, 0x70], #v[0xF0, 0x10, 0xF0, 0x80, 0xF0],
   #v[0xF0, 0x10, 0xF0, 0x10, 0xF0], #v[0x90, 0x90, 0xF0, 0x10, 0x10], #v[0xF0, 0x80, 0xF0, 0x10, 0xF0],
   #v[0xF0, 0x80, 0xF0, 0x90, 0xF0], #v[0xF0, 0x10, 0x20, 0x40, 0x40]]

/-- FONT_GLYPHS as 10_state.md R33 tabulates it, glyphs 8 to F. -/
def fontGlyphsHigh : List (Vector Byte 5) :=
  [#v[0xF0, 0x90, 0xF0, 0x90, 0xF0], #v[0xF0, 0x90, 0xF0, 0x10, 0xF0], #v[0xF0, 0x90, 0xF0, 0x90, 0x90],
   #v[0xE0, 0x90, 0xE0, 0x90, 0xE0], #v[0xF0, 0x80, 0x80, 0x80, 0xF0], #v[0xE0, 0x90, 0x90, 0x90, 0xE0],
   #v[0xF0, 0x80, 0xF0, 0x80, 0xF0], #v[0xF0, 0x80, 0xF0, 0x80, 0x80]]

/-- The 16 glyphs of 10_state.md R33 (D12). -/
def fontGlyphs : Vector (Vector Byte 5) 16 := ⟨(fontGlyphsLow ++ fontGlyphsHigh).toArray, rfl⟩

/-- The "value taken" column of 00_scope.md R9: FONT_BASE = 0x000 (D11), the table of R33 (D12), FLAG_LAST as the
simulator default of the OPEN VF_ORDER (D14), DRAW_EDGE = WRAP (D20), I_ADVANCE = false (D19). -/
def standardConfig : Config :=
  { fontBase := 0x000, fontGlyphs := fontGlyphs, vfOrder := .flagLast, drawEdge := .wrap, iAdvance := false }

end Sys2Proof.Machine
end

