-- ==== Sys2Proof/Machine/State.lean ====
section
/-! DEFINITION. The state of the core: everything 10_state.md gives the machine, the implementation parameters, the
ports of 47_interface.md, and two fields of the model's own (`pending`, `draws`). Plain data. -/

namespace Sys2Proof.Machine

/-- The seven fault causes of 60_exceptions.md R250. A cause is TAKEN (R251): it leads to a next state, the halted
one. Addresses are part of the fault's description only (44_index_memory.md R184). -/
inductive Cause where
  /-- PC + 1 > 0xFFF at the fetch (40_cycle.md R102). -/
  | fetchOutOfBounds
  /-- 2NNN with SP = 16 (41_flow.md R122). -/
  | stackOverflow
  /-- 00EE with SP = 0 (41_flow.md R120). -/
  | stackUnderflow
  /-- The fetched word is Unknown (40_cycle.md R105). -/
  | unknownOpcode
  /-- A data address above 0xFFF; `addr` is the lowest such address (20_memory.md R54). -/
  | memoryOutOfBounds (addr : Nat)
  /-- A data write below 0x200; `addr` is the lowest such address (20_memory.md R53). -/
  | reservedWrite (addr : Nat)
  /-- EX9E, EXA1, FX29 with V[X] > 0x0F (R210, R211, R182). -/
  | operandOutOfRange
  deriving DecidableEq, Repr

/-- The two rejections of 60_exceptions.md R250, R255: a refused host command, no change of state. -/
inductive Rejection where
  /-- LOAD of an image longer than 3584 bytes (47_interface.md R231). -/
  | loadError
  /-- SET_KEY with an index above 15 (47_interface.md R237). -/
  | invalidKeyIndex
  deriving DecidableEq, Repr

/-- The response of a command (47_interface.md R230). -/
inductive Response where
  | ok
  /-- `Fault(fault_code, fault_pc, fault_op)`. -/
  | fault (code : Byte) (pc op : Word)
  | rejected (r : Rejection)
  deriving DecidableEq, Repr

/-- The four host commands (47_interface.md R230) with their operands. -/
inductive Command where
  /-- CYCLE(rnd) -/
  | cycle (rnd : Byte)
  /-- TICK -/
  | tick
  /-- SET_KEY(k, p): the index input is 8 bits wide (R237). -/
  | setKey (k : Byte) (p : Bool)
  /-- LOAD(image) -/
  | load (image : List Byte)
  deriving DecidableEq, Repr

/-- Memory: address and byte, addresses rising, no entry equal to what an unlisted address reads as (`Memory.wf`). -/
abbrev Memory := List Host.Cell

/-- The state. The first 18 fields are the spec's (10_state.md), `cfg` holds the parameters of 00_scope.md R9, `rnd` and
`resp` are ports of 47_interface.md R241, `pending` and `draws` are the model's own. -/
structure State where
  /-- V0..VF (R20). -/
  v : Vector Byte 16
  /-- PC (R23). -/
  pc : Word
  /-- I (R25). -/
  iReg : Word
  /-- S[0]..S[15] (R26). -/
  stack : Vector Word 16
  /-- SP, the number of occupied slots (R27). -/
  sp : Fin 17
  /-- DT (R28). -/
  dt : Byte
  /-- ST (R29). -/
  st : Byte
  /-- M (R30). -/
  mem : Memory
  /-- D by rows, top row first: bit x of row y is D(x, y) (R31, log entry 11). -/
  display : Vector (BitVec 64) 32
  /-- K: `true` is pressed (R32). -/
  keys : Vector Bool 16
  /-- An FX0A has started and not completed (R40). -/
  awaiting : Bool
  /-- The X field of the waiting FX0A (R40). -/
  waitReg : Nibble
  /-- A qualifying key press has arrived (R41). -/
  latchValid : Bool
  /-- The latched key (R41). -/
  latchKey : Nibble
  /-- A fatal condition occurred (R42). -/
  halted : Bool
  /-- fault_code (R42). -/
  faultCode : Byte
  /-- fault_pc (R42). -/
  faultPc : Word
  /-- fault_op (R42). -/
  faultOp : Word
  /-- The implementation parameters (00_scope.md R9): fixed, written by no step (log entry 1). -/
  cfg : Config
  /-- The random input of the CYCLE being performed (47_interface.md R233, log entry 6). -/
  rnd : Byte
  /-- The response of the last command (47_interface.md R230, log entry 8). -/
  resp : Response
  /-- The host commands issued and not yet performed, oldest first (47_interface.md R235, log entry 7). -/
  pending : List Command
  /-- How many random bytes have been drawn from `Config.draw` (log entry 6). -/
  draws : Nat
  deriving DecidableEq, Repr

/-- How a step can end in a fault: in no way. Every fault of the spec is an entry into the halted state, which is a
next state (60_exceptions.md R251; log entry 9). Nobody raises it, which is safe: no step is cut short. -/
inductive Fault where
  deriving DecidableEq, Repr

/-- How a step can end in a refusal. -/
inductive Refusal where
  /-- Raised by an arm of `exec` whose instruction has no meaning yet, with the table's mnemonic; no arm does. Safe: the
  machine stops where the hardware goes on. -/
  | notModelled (mnemonic : String)
  deriving DecidableEq, Repr

/-- Construction (70_reset_and_hazards.md R281): the reset values of 10_state.md R44 with all keys released. `rnd`, `resp`,
`pending` and `draws` are the model's (log entries 6, 7, 8). -/
def State.reset : State :=
  { v := Vector.replicate 16 0x00
    pc := 0x200
    iReg := 0x0000
    stack := Vector.replicate 16 0x0000
    sp := 0
    dt := 0x00
    st := 0x00
    mem := []
    display := Vector.replicate 32 0
    keys := Vector.replicate 16 false
    awaiting := false
    waitReg := 0
    latchValid := false
    latchKey := 0
    halted := false
    faultCode := 0x00
    faultPc := 0x0000
    faultOp := 0x0000
    cfg := standardConfig
    rnd := 0x00
    resp := .ok
    pending := []
    draws := 0 }

end Sys2Proof.Machine
end

