-- ==== Sys2Proof/Machine/Ops.lean ====
section
/-! DEFINITION. The shared operations: memory, the range checks, taking a fault, the PC updates, the stack. -/

namespace Sys2Proof.Machine

/-- The outcome of a meaning. -/
abbrev Result := Host.Outcome State Fault Refusal

/-! ## Memory -/

/-- What an unlisted address reads as: the reset contents of memory (10_state.md R44, R34), the font at
FONT_BASE..FONT_BASE+79 and 0x00 everywhere else. -/
def unlistedByte (cfg : Config) (a : Nat) : Byte :=
  if cfg.fontBase ≤ a then ((cfg.fontGlyphs[(a - cfg.fontBase) / 5]?.bind (·[(a - cfg.fontBase) % 5]?)).getD 0x00)
  else 0x00

/-- The byte at an address (20_memory.md R58: a read changes nothing). -/
def Memory.read (cfg : Config) : Memory → Nat → Byte
  | [], a => unlistedByte cfg a
  | (k, b) :: m, a => if k = a then b else Memory.read cfg m a

/-- List an address and its byte in front of the entries above it, unless the byte is what the address reads as unlisted. -/
def Memory.enter (cfg : Config) (a : Nat) (b : Byte) (m : Memory) : Memory :=
  if b = unlistedByte cfg a then m else (a, b) :: m

/-- Store a byte, keeping the canonical form. -/
def Memory.write (cfg : Config) (a : Nat) (b : Byte) : Memory → Memory
  | [] => Memory.enter cfg a b []
  | (k, c) :: m =>
    if a < k then Memory.enter cfg a b ((k, c) :: m)
    else if a = k then Memory.enter cfg a b m
    else (k, c) :: Memory.write cfg a b m

/-- Store consecutive bytes at increasing addresses, the first at `a` (20_memory.md R55). -/
def Memory.writeBytes (cfg : Config) (a : Nat) : List Byte → Memory → Memory
  | [], m => m
  | b :: bs, m => Memory.writeBytes cfg (a + 1) bs (Memory.write cfg a b m)

/-- The entries start at `low` or above, rise strictly, lie below 4096, and differ from what their address reads as
unlisted. -/
def Memory.wfAbove (cfg : Config) : Nat → Memory → Bool
  | _, [] => true
  | low, (k, b) :: m => decide (low ≤ k) && decide (k < 4096) && b != unlistedByte cfg k && Memory.wfAbove cfg (k + 1) m

/-- The canonical form of memory: strictly rising addresses inside the 4096-byte space (20_memory.md R50), no entry equal to
what its address reads as unlisted. -/
def Memory.wf (cfg : Config) (m : Memory) : Bool := Memory.wfAbove cfg 0 m

/-- M[a] (00_scope.md R13; the range is checked before, 44_index_memory.md R184). -/
def State.byteAt (s : State) (a : Nat) : Byte := Memory.read s.cfg s.mem a

/-- Store consecutive bytes from address `a`. -/
def State.store (a : Nat) (bs : List Byte) (s : State) : State :=
  { s with mem := Memory.writeBytes s.cfg a bs s.mem }

/-! ## Faults -/

/-- The fault codes of 60_exceptions.md R250. -/
def Cause.code : Cause → Byte
  | .fetchOutOfBounds => 0x01
  | .stackOverflow => 0x02
  | .stackUnderflow => 0x03
  | .unknownOpcode => 0x04
  | .memoryOutOfBounds _ => 0x05
  | .reservedWrite _ => 0x06
  | .operandOutOfRange => 0x07

/-- The rejection codes of 60_exceptions.md R250. -/
def Rejection.code : Rejection → Byte
  | .loadError => 0x10
  | .invalidKeyIndex => 0x11

/-- Fault entry (60_exceptions.md R251): the four fault registers are written and nothing else; PC stays at the faulting
instruction (R252). There is no handler and no return from a fault (R258); only an accepted LOAD leaves the halted state (R254,
`State.coreReset`). -/
def State.takeFault (c : Cause) (op : Word) (s : State) : State :=
  { s with halted := true, faultCode := c.code, faultPc := s.pc, faultOp := op }

/-- `raise F` (00_scope.md R14): the command ends in the halted state. -/
def raise (c : Cause) (op : Word) (s : State) : Result := .next (s.takeFault c op)

/-- An instruction whose checks precede its writes (00_scope.md R14): the fault of the first check that fails, or the
instruction's effect `t`. `op` is the instruction's word. -/
def checked (check : Option Cause) (op : Word) (s t : State) : Result :=
  match check with
  | some c => raise c op s
  | none => .next t

/-- CheckRead(a, n) of 44_index_memory.md R184, n ≥ 1. -/
def checkRead (a n : Nat) : Option Cause :=
  if a + n - 1 > 0xFFF then some (.memoryOutOfBounds (max a 0x1000)) else none

/-- CheckWrite(a, n) of 44_index_memory.md R184, n ≥ 1. -/
def checkWrite (a n : Nat) : Option Cause :=
  if a + n - 1 > 0xFFF then some (.memoryOutOfBounds (max a 0x1000))
  else if a < 0x200 then some (.reservedWrite a)
  else none

/-- The check of EX9E, EXA1 and FX29: V[X] names a key or a glyph only up to 0x0F (R210, R211, R182). -/
def checkNibble (b : Byte) : Option Cause := if b > 0x0F then some .operandOutOfRange else none

/-! ## PC (40_cycle.md R104) -/

/-- A load of PC. -/
def State.setPc (a : Word) (s : State) : State := { s with pc := a }

/-- ADVANCE. -/
def State.advance (s : State) : State := s.setPc (s.pc + 2)

/-- SKIP when the condition holds, otherwise ADVANCE. -/
def State.skipIf (c : Bool) (s : State) : State := s.setPc (s.pc + if c then 4 else 2)

/-! ## The stack (10_state.md R27) -/

/-- Push: write S[SP], then increment SP; nothing when all 16 slots are occupied. -/
def State.push (a : Word) (s : State) : Option State :=
  if h : s.sp.val < 16 then some { s with stack := s.stack.set s.sp.val a, sp := ⟨s.sp.val + 1, by omega⟩ } else none

/-- Pop: decrement SP, then read S[SP], which keeps its value; nothing when no slot is occupied. -/
def State.pop (s : State) : Option (Word × State) :=
  if h : 0 < s.sp.val then some (s.stack[s.sp.val - 1], { s with sp := ⟨s.sp.val - 1, by omega⟩ }) else none

end Sys2Proof.Machine
end

