-- ==== Sys2Proof/Machine/Operands.lean ====
section
/-! DEFINITION. Operand access: the registers, the fields as operands (30_encoding.md R82), the effective address, the
keys, and the loads and stores of register ranges. -/

namespace Sys2Proof.Machine

/-- The index of VF (10_state.md R21). -/
def vf : Nibble := 0xF

/-- V[x] of a register file. -/
def readV (v : Vector Byte 16) (x : Nibble) : Byte := v[x.toNat]'x.isLt

/-- V[x] <- b in a register file; every register holds any value, none is hardwired (10_state.md R20). -/
def writeV (v : Vector Byte 16) (x : Nibble) (b : Byte) : Vector Byte 16 := v.set x.toNat b x.isLt

/-- V[x]. -/
def State.getV (s : State) (x : Nibble) : Byte := readV s.v x

/-- V[x] <- b. -/
def State.setV (x : Nibble) (b : Byte) (s : State) : State := { s with v := writeV s.v x b }

/-- I <- a. -/
def State.setI (a : Word) (s : State) : State := { s with iReg := a }

/-- zext_16(NNN) (30_encoding.md R82). -/
def addrOperand (nnn : Addr) : Word := nnn.setWidth 16

/-- zext_16 of a register, for the address arithmetic on I and PC (43_alu.md R163 (5)). -/
def wordOperand (b : Byte) : Word := b.setWidth 16

/-- The base of every data access: I as an exact integer, so that I + offset never wraps (20_memory.md R54). -/
def State.base (s : State) : Nat := s.iReg.toNat

/-- K[k] for a register value of at most 0x0F (46_timers_keys.md R210). -/
def State.keyAt (s : State) (b : Byte) : Bool := s.keys[b.toNat]?.getD false

/-- V0..V[x] in order, the bytes FX55 stores (44_index_memory.md R186). -/
def State.regsUpTo (s : State) (x : Nibble) : List Byte := s.v.toList.take (x.toNat + 1)

/-- V[i] <- M[a + i] for i = 0 .. n-1 (44_index_memory.md R187). -/
def State.loadRegs (s : State) (a : Nat) : Nat → Vector Byte 16
  | 0 => s.v
  | n + 1 => (s.loadRegs a n).setIfInBounds n (s.byteAt (a + n))

/-- I after FX55 and FX65: I + X + 1 modulo 2^16 when I_ADVANCE holds, else unchanged (R186, R187). -/
def State.advanceI (x : Nibble) (s : State) : State :=
  if s.cfg.iAdvance then s.setI (s.iReg + BitVec.ofNat 16 (x.toNat + 1)) else s

/-- The decimal digits of a byte, hundreds first (44_index_memory.md R185). -/
def bcdDigits (b : Byte) : List Byte := [b / 100, b / 10 % 10, b % 10]

end Sys2Proof.Machine
end

