-- ==== Sys2Proof/Machine/Flags.lean ====
section
/-! DEFINITION. The flag computations of 43_alu.md R157-R161 and the flag write-back FlagOp of R156. -/

namespace Sys2Proof.Machine

/-- zext_8 of a one-bit flag. -/
def flagByte (f : Bool) : Byte := if f then 1 else 0

/-- The carry of 8XY4: the exact sum exceeds 0xFF (R157). -/
def carryOf (a b : Byte) : Bool := decide (a.toNat + b.toNat > 0xFF)

/-- NOT borrow of a − b: a ≥ b (R158, R160). -/
def notBorrow (a b : Byte) : Bool := decide (b.toNat ≤ a.toNat)

/-- The bit a right shift by one moves out (R159). -/
def bitOutRight (a : Byte) : Bool := a.getLsbD 0

/-- The bit a left shift by one moves out (R161). -/
def bitOutLeft (a : Byte) : Bool := a.getLsbD 7

/-- FlagOp(X, res, flg) on the register file, without its ADVANCE (R156): `res` and `flg` are functions of the register
file they read. -/
def flagOp (order : VfOrder) (x : Nibble) (res : Vector Byte 16 → Byte) (flg : Vector Byte 16 → Bool)
    (v : Vector Byte 16) : Vector Byte 16 :=
  match order with
  | .flagLast => writeV (writeV v x (res v)) vf (flagByte (flg v))
  | .resultLast => writeV (writeV v vf (flagByte (flg v))) x (res v)
  | .flagFirstSeq => writeV (writeV v vf (flagByte (flg v))) x (res (writeV v vf (flagByte (flg v))))

/-- FlagOp(X, res, flg) with its ADVANCE (R156), in the order the machine's VF_ORDER names. -/
def State.flagOp (x : Nibble) (res : Vector Byte 16 → Byte) (flg : Vector Byte 16 → Bool) (s : State) : State :=
  { s with v := Machine.flagOp s.cfg.vfOrder x res flg s.v }.advance

end Sys2Proof.Machine
end

