-- ==== Sys2Proof/Machine/DisplayOps.lean ====
section
/-! DEFINITION. The display instructions (45_display.md): 00E0, DXYN, and the sprite format. -/

namespace Sys2Proof.Machine

/-- The display bitplane, one 64-bit row per line, top line first (10_state.md R31). -/
abbrev Display := Vector (BitVec 64) 32

/-- D(x, y) of a display. -/
def Display.cell (d : Display) (x y : Nat) : Bool := (d[y]?.getD 0).getLsbD x

/-- D(x, y) <- D(x, y) ^ 1. -/
def Display.toggle (d : Display) (x y : Nat) : Display := d.setIfInBounds y (d[y]?.getD 0 ^^^ 1#64 <<< x)

/-- The cell of the sprite pixel in column `c` and row `r` of a sprite drawn at (x0, y0): none where CLIP drops the
pixel (R202, R203). -/
def pixelCell (edge : DrawEdge) (x0 y0 c r : Nat) : Option (Nat × Nat) :=
  match edge with
  | .wrap => some ((x0 + c) % 64, (y0 + r) % 32)
  | .clip => if x0 + c > 63 ∨ y0 + r > 31 then none else some (x0 + c, y0 + r)

/-- Drawing so far: the display and the collision bit. -/
abbrev Canvas := Display × Bool

/-- One sprite pixel: a 1 bit toggles its cell and records a collision when the cell was on; a 0 bit does nothing (R201,
R202). -/
def drawPixel (cell : Option (Nat × Nat)) (bit : Bool) (cv : Canvas) : Canvas :=
  match cell, bit with
  | some (px, py), true => (Display.toggle cv.1 px py, cv.2 || Display.cell cv.1 px py)
  | _, _ => cv

/-- The first `k` columns of sprite row `r`, byte `b`: column c is bit 7 − c, bit 7 leftmost (R201). -/
def drawCols (edge : DrawEdge) (x0 y0 r : Nat) (b : Byte) : Nat → Canvas → Canvas
  | 0, cv => cv
  | c + 1, cv => drawPixel (pixelCell edge x0 y0 c r) (b.getLsbD (7 - c)) (drawCols edge x0 y0 r b c cv)

/-- The first `n` rows of the sprite at address `a`, top row first (R202). -/
def drawRows (s : State) (x0 y0 a : Nat) : Nat → Canvas → Canvas
  | 0, cv => cv
  | r + 1, cv => drawCols s.cfg.drawEdge x0 y0 r (s.byteAt (a + r)) 8 (drawRows s x0 y0 a r cv)

/-- DXYN's drawing from an empty collision bit, at (V[X] mod 64, V[Y] mod 32). -/
def State.drawSprite (s : State) (x y n : Nibble) : Canvas :=
  drawRows s ((s.getV x).toNat % 64) ((s.getV y).toNat % 32) s.base n.toNat (s.display, false)

/-- D and VF after a drawing. -/
def State.setCanvas (cv : Canvas) (s : State) : State := { s with display := cv.1 }.setV vf (flagByte cv.2)

/-- DXYN's range check, made only for N > 0 (R202, D22). -/
def checkSprite (a : Nat) (n : Nibble) : Option Cause := if n = 0 then none else checkRead a n.toNat

/-- 00E0 CLS (R200). -/
def execCls (s : State) : Result := .next (State.advance { s with display := Vector.replicate 32 0 })

/-- DXYN DRW Vx, Vy, n (R202): the coordinates are read before VF is written, VF = collision. -/
def execDrw (x y n : Nibble) (s : State) : Result :=
  checked (checkSprite s.base n) (encode (.drw x y n)) s (s.setCanvas (s.drawSprite x y n)).advance

end Sys2Proof.Machine
end

