-- ==== Sys2Proof/Machine/Flow.lean ====
section
/-! DEFINITION. Control transfer (41_flow.md): 00EE, 1NNN, 2NNN, BNNN. -/

namespace Sys2Proof.Machine

/-- 00EE RET (R120): the popped address is used as it is, with no advance past it. -/
def execRet (s : State) : Result :=
  match s.pop with
  | none => raise .stackUnderflow (encode .ret) s
  | some (a, t) => .next (t.setPc a)

/-- 1NNN JP nnn (R121). -/
def execJp (nnn : Addr) (s : State) : Result := .next (s.setPc (addrOperand nnn))

/-- 2NNN CALL nnn (R122): PC + 2 is pushed (90_conflicts.md C3). -/
def execCall (nnn : Addr) (s : State) : Result :=
  match s.push (s.pc + 2) with
  | none => raise .stackOverflow (encode (.call nnn)) s
  | some t => .next (t.setPc (addrOperand nnn))

/-- BNNN JP V0, nnn (R123): the exact 16-bit sum, not masked to 12 bits. -/
def execJpV0 (nnn : Addr) (s : State) : Result := .next (s.setPc (addrOperand nnn + wordOperand (s.getV 0x0)))

end Sys2Proof.Machine
end

