-- ==== Sys2Proof/Machine/IndexMemory.lean ====
section
/-! DEFINITION. The index register and the memory transfers (44_index_memory.md): ANNN, FX1E, FX29, FX33, FX55, FX65. -/

namespace Sys2Proof.Machine

/-- ANNN LD I, nnn (R180). -/
def execLdI (nnn : Addr) (s : State) : Result := .next (s.setI (addrOperand nnn)).advance

/-- FX1E ADD I, Vx (R181): modulo 2^16, VF unchanged. -/
def execAddIVx (x : Nibble) (s : State) : Result := .next (s.setI (s.iReg + wordOperand (s.getV x))).advance

/-- The address of a font glyph, FONT_BASE + 5 × V[X] (R182). -/
def glyphAddr (cfg : Config) (b : Byte) : Word := BitVec.ofNat 16 (cfg.fontBase + 5 * b.toNat)

/-- FX29 LD F, Vx (R182). -/
def execLdFVx (x : Nibble) (s : State) : Result :=
  checked (checkNibble (s.getV x)) (encode (.ldFVx x)) s (s.setI (glyphAddr s.cfg (s.getV x))).advance

/-- FX33 LD B, Vx (R185). -/
def execLdBVx (x : Nibble) (s : State) : Result :=
  checked (checkWrite s.base 3) (encode (.ldBVx x)) s (s.store s.base (bcdDigits (s.getV x))).advance

/-- FX55 LD [I], Vx (R186). -/
def execLdMemVx (x : Nibble) (s : State) : Result :=
  checked (checkWrite s.base (x.toNat + 1)) (encode (.ldMemVx x)) s
    ((s.store s.base (s.regsUpTo x)).advanceI x).advance

/-- FX65 LD Vx, [I] (R187). -/
def execLdVxMem (x : Nibble) (s : State) : Result :=
  checked (checkRead s.base (x.toNat + 1)) (encode (.ldVxMem x)) s
    (State.advanceI x { s with v := s.loadRegs s.base (x.toNat + 1) }).advance

end Sys2Proof.Machine
end

