-- ==== Sys2Proof/Machine/Alu.lean ====
section
/-! DEFINITION. Register loads and the ALU (43_alu.md): 6XNN, 7XNN, 8XY0-8XYE, CXNN. -/

namespace Sys2Proof.Machine

/-- V[x] <- b; ADVANCE. -/
def State.load (x : Nibble) (b : Byte) (s : State) : State := (s.setV x b).advance

/-- 6XNN LD Vx, nn (R150). -/
def execLdImm (x : Nibble) (nn : Byte) (s : State) : Result := .next (s.load x nn)

/-- 7XNN ADD Vx, nn (R151): modulo 256, no flag. -/
def execAddImm (x : Nibble) (nn : Byte) (s : State) : Result := .next (s.load x (s.getV x + nn))

/-- 8XY0 LD Vx, Vy (R152). -/
def execLdReg (x y : Nibble) (s : State) : Result := .next (s.load x (s.getV y))

/-- 8XY1 OR Vx, Vy (R153): VF unchanged. -/
def execOr (x y : Nibble) (s : State) : Result := .next (s.load x (s.getV x ||| s.getV y))

/-- 8XY2 AND Vx, Vy (R154): VF unchanged. -/
def execAnd (x y : Nibble) (s : State) : Result := .next (s.load x (s.getV x &&& s.getV y))

/-- 8XY3 XOR Vx, Vy (R155): VF unchanged. -/
def execXor (x y : Nibble) (s : State) : Result := .next (s.load x (s.getV x ^^^ s.getV y))

/-- 8XY4 ADD Vx, Vy (R157): VF = carry. -/
def execAddReg (x y : Nibble) (s : State) : Result :=
  .next (s.flagOp x (fun v => readV v x + readV v y) (fun v => carryOf (readV v x) (readV v y)))

/-- 8XY5 SUB Vx, Vy (R158): V[X] − V[Y], VF = NOT borrow. -/
def execSub (x y : Nibble) (s : State) : Result :=
  .next (s.flagOp x (fun v => readV v x - readV v y) (fun v => notBorrow (readV v x) (readV v y)))

/-- 8XY6 SHR Vx (R159): V[X] is shifted, Y is ignored; VF = the bit shifted out. -/
def execShr (x _y : Nibble) (s : State) : Result :=
  .next (s.flagOp x (fun v => readV v x >>> 1) (fun v => bitOutRight (readV v x)))

/-- 8XY7 SUBN Vx, Vy (R160): V[Y] − V[X], VF = NOT borrow. -/
def execSubn (x y : Nibble) (s : State) : Result :=
  .next (s.flagOp x (fun v => readV v y - readV v x) (fun v => notBorrow (readV v y) (readV v x)))

/-- 8XYE SHL Vx (R161): V[X] is shifted, Y is ignored; VF = the bit shifted out. -/
def execShl (x _y : Nibble) (s : State) : Result :=
  .next (s.flagOp x (fun v => readV v x <<< 1) (fun v => bitOutLeft (readV v x)))

/-- CXNN RND Vx, nn (R162): the random input of the current CYCLE AND the immediate. -/
def execRnd (x : Nibble) (nn : Byte) (s : State) : Result := .next (s.load x (s.rnd &&& nn))

end Sys2Proof.Machine
end

