-- ==== Sys2Proof/Machine/KeysTimers.lean ====
section
/-! DEFINITION. Keypad and timer instructions (46_timers_keys.md): EX9E, EXA1, FX07, FX0A, FX15, FX18. -/

namespace Sys2Proof.Machine

/-- EX9E SKP Vx (R210): the level of the key V[X]. -/
def execSkp (x : Nibble) (s : State) : Result :=
  checked (checkNibble (s.getV x)) (encode (.skp x)) s (s.skipIf (s.keyAt (s.getV x)))

/-- EXA1 SKNP Vx (R211). -/
def execSknp (x : Nibble) (s : State) : Result :=
  checked (checkNibble (s.getV x)) (encode (.sknp x)) s (s.skipIf (!s.keyAt (s.getV x)))

/-- FX07 LD Vx, DT (R212). -/
def execLdVxDt (x : Nibble) (s : State) : Result := .next (s.load x s.dt)

/-- FX0A LD Vx, K (R213): the wait starts, PC is not advanced; `State.waitStep` completes it. -/
def execLdVxK (x : Nibble) (s : State) : Result :=
  .next { s with awaiting := true, waitReg := x, latchValid := false }

/-- FX15 LD DT, Vx (R216). -/
def execLdDtVx (x : Nibble) (s : State) : Result := .next (State.advance { s with dt := s.getV x })

/-- FX18 LD ST, Vx (R217). -/
def execLdStVx (x : Nibble) (s : State) : Result := .next (State.advance { s with st := s.getV x })

end Sys2Proof.Machine
end

