-- ==== Sys2Proof/Machine/Cycle.lean ====
section
/-! DEFINITION. One CYCLE (40_cycle.md): halted check, wait step, fetch, decode, execute, in this order (R106). -/

namespace Sys2Proof.Machine

/-- The fetch (R102): M[PC] and M[PC+1], big-endian, or nothing when PC + 1 > 0xFFF. -/
def State.fetch (s : State) : Option Word :=
  if s.pc.toNat + 1 > 0xFFF then none else some (joinBytes (s.byteAt s.pc.toNat) (s.byteAt (s.pc.toNat + 1)))

/-- The wait step (R101): with a key latched, FX0A completes and nothing else happens. -/
def State.waitStep (s : State) : State :=
  if s.latchValid then
    State.advance { s.setV s.waitReg (s.latchKey.setWidth 8) with awaiting := false, latchValid := false }
  else s

/-- Decode and execute a fetched word (R103, R105). -/
def execWord (op : Word) (s : State) : Result :=
  match decode op with
  | .instr i => exec i s
  | .unknown w => raise .unknownOpcode w s

/-- `Cycle(rnd)` of R100; `rnd` stands in the state. -/
def cycle (s : State) : Result :=
  if s.halted then .next s
  else if s.awaiting then .next s.waitStep
  else
    match s.fetch with
    | none => raise .fetchOutOfBounds 0x0000 s
    | some op => execWord op s

end Sys2Proof.Machine
end

