-- ==== Sys2Proof/Machine/Commands.lean ====
section
/-! DEFINITION. The host commands (47_interface.md): LOAD, CYCLE, TICK, SET_KEY, their responses, and reset. -/

namespace Sys2Proof.Machine

/-- The address a program is loaded at, PROG_BASE (00_scope.md R8). -/
def progBase : Nat := 0x200

/-- The longest image LOAD accepts, MAX_IMAGE (00_scope.md R8). -/
def maxImage : Nat := 3584

/-- `Reset()` of 70_reset_and_hazards.md R280: everything but K (R283), the parameters, the ports and the model's own fields. -/
def State.coreReset (s : State) : State :=
  { State.reset with
    keys := s.keys, cfg := s.cfg, rnd := s.rnd, resp := s.resp, pending := s.pending, draws := s.draws }

/-- LOAD(image) (R231, R282): Reset() and then the copy, or a rejection that changes nothing. -/
def load (image : List Byte) (s : State) : State × Response :=
  if image.length > maxImage then (s, .rejected .loadError) else (s.coreReset.store progBase image, .ok)

/-- `Fault(fault_code, fault_pc, fault_op)`, the fault on record (R239). -/
def State.faultReport (s : State) : Response := .fault s.faultCode s.faultPc s.faultOp

/-- A timer is decremented while above zero (60_exceptions.md R262). -/
def countDown (t : Byte) : Byte := if t = 0 then 0 else t - 1

/-- TICK (R262); a halted core keeps its timers and answers the recorded fault (R254). -/
def tick (s : State) : State × Response :=
  if s.halted then (s, s.faultReport) else ({ s with dt := countDown s.dt, st := countDown s.st }, .ok)

/-- A SET_KEY(k, p) with k ≤ 15 is a qualifying press (46_timers_keys.md R214): the key goes from released to pressed while
an FX0A waits with no key latched. -/
def State.qualifies (k : Byte) (p : Bool) (s : State) : Bool := p && !s.keyAt k && s.awaiting && !s.latchValid

/-- The first qualifying press latches its key (R214). -/
def State.latch (k : Byte) (s : State) : State := { s with latchKey := k.setWidth 4, latchValid := true }

/-- K[k] <- p. -/
def State.setKeyLevel (k : Byte) (p : Bool) (s : State) : State := { s with keys := s.keys.setIfInBounds k.toNat p }

/-- SET_KEY(k, p) (R236); an index above 15 is rejected (R237). -/
def setKey (k : Byte) (p : Bool) (s : State) : State × Response :=
  if k > 15 then (s, .rejected .invalidKeyIndex)
  else ((if s.qualifies k p then s.latch k else s).setKeyLevel k p, .ok)

/-- The response of a CYCLE (R232): the recorded fault on a core that is halted after it, Ok otherwise. -/
def State.cycleResponse (s : State) : Response := if s.halted then s.faultReport else .ok

/-- Put a response on the response port. -/
def State.respond (r : Response) (s : State) : State := { s with resp := r }

/-- CYCLE(rnd) (R232, R233). -/
def runCycle (rnd : Byte) (s : State) : Result :=
  match cycle { s with rnd := rnd } with
  | .next t => .next (t.respond t.cycleResponse)
  | .fault f => .fault f
  | .refused r => .refused r

/-- A host command that is no CYCLE: its new state with its response on the port. -/
def answer (r : State × Response) : Result := .next (r.1.respond r.2)

/-- Perform a command: one atomic transition to a new state and a response (R230). -/
def perform (c : Command) (s : State) : Result :=
  match c with
  | .cycle rnd => runCycle rnd s
  | .tick => answer (tick s)
  | .setKey k p => answer (setKey k p s)
  | .load image => answer (load image s)

/-- The command performed next: the oldest one pending, or, with none pending, a CYCLE with a freshly drawn random byte
(R235, R233; log entries 6 and 7). -/
def State.nextCommand (s : State) : Command × State :=
  match s.pending with
  | [] => (.cycle (Config.draw s.draws), { s with draws := s.draws + 1 })
  | c :: cs => (c, { s with pending := cs })

end Sys2Proof.Machine
end

