-- ==== Sys2Proof/Machine/Step.lean ====
section
/-! DEFINITION. One step of the model: one host command (47_interface.md R230, R235). -/

namespace Sys2Proof.Machine

/-- Perform the next host command. -/
def step (s : State) : Host.Outcome State Fault Refusal := perform s.nextCommand.1 s.nextCommand.2

/-- `s` with the instruction word `w` of `nbits` bits stored where the next step fetches: at PC, or at 0x200 when nothing can be
fetched at PC; the core is put in the running state and no other command is pending, so that the next step is the CYCLE that
fetches it. Stands for the host's LOAD (log entry 10). -/
def State.withFetchWord (s : State) (nbits w : Nat) : State :=
  let op : Word := BitVec.ofNat 16 (w % 2 ^ nbits)
  let pc : Word := if s.pc.toNat + 1 > 0xFFF then 0x200 else s.pc
  { s with
    pc := pc, halted := false, awaiting := false, latchValid := false, pending := []
    mem := Memory.writeBytes s.cfg pc.toNat [highByte op, lowByte op] s.mem }

end Sys2Proof.Machine
end

