-- ==== Sys2Proof/Machine/Views.lean ====
section
/-! DEFINITION. The read-only views (47_interface.md R238-R240) and the port list (R241). -/

namespace Sys2Proof.Machine

/-- D(x, y) (10_state.md R31). -/
def State.cell (s : State) (x y : Nat) : Bool := Display.cell s.display x y

/-- Bit `i` of the display view: index y × 64 + x is D(x, y) (R238, R241). -/
def State.displayBit (s : State) (i : Nat) : Bool := s.cell (i % 64) (i / 64)

/-- sound_active (R240). -/
def State.soundActive (s : State) : Bool := s.st != 0

/-- The input ports of R241 at the start of a command. -/
structure InPorts where
  cmd : BitVec 2
  rnd : Byte
  keyIdx : Byte
  keyPressed : Bool
  imgLen : BitVec 12
  /-- The image bytes in address order, `imgLen` of them. -/
  imgData : List Byte
  deriving DecidableEq, Repr

/-- The command the input ports name: 0 = CYCLE, 1 = TICK, 2 = SET_KEY, 3 = LOAD (R241). -/
def InPorts.command (p : InPorts) : Command :=
  if p.cmd = 0 then .cycle p.rnd
  else if p.cmd = 1 then .tick
  else if p.cmd = 2 then .setKey p.keyIdx p.keyPressed
  else .load (p.imgData.take p.imgLen.toNat)

/-- The port resp: 0 = Ok, 1 = Fault, 2 = Rejected (R241). -/
def Response.port : Response → BitVec 2
  | .ok => 0
  | .fault _ _ _ => 1
  | .rejected _ => 2

/-- The port resp_code: the fault code or the rejection code, 0 for Ok (R241, R250). -/
def Response.portCode : Response → Byte
  | .ok => 0x00
  | .fault code _ _ => code
  | .rejected r => r.code

/-- The output ports of R241; `display` bit y × 64 + x is `State.displayBit`. -/
structure OutPorts where
  resp : BitVec 2
  respCode : Byte
  /-- The 2048 bits of the port, bit 0 first. -/
  display : List Bool
  dt : Byte
  st : Byte
  soundActive : Bool
  halted : Bool
  faultCode : Byte
  faultPc : Word
  faultOp : Word
  deriving DecidableEq, Repr

/-- The output ports in a state (R238-R241). -/
def State.outPorts (s : State) : OutPorts :=
  { resp := s.resp.port, respCode := s.resp.portCode, display := (List.range 2048).map s.displayBit,
    dt := s.dt, st := s.st, soundActive := s.soundActive, halted := s.halted, faultCode := s.faultCode,
    faultPc := s.faultPc, faultOp := s.faultOp }

end Sys2Proof.Machine
end

