-- ==== Sys2Proof/Safety.lean ====
section
/-! DEFINITION. What claims are stated in: the invariants of the core, which words an instruction's pattern admits, the result
of a flag instruction, the sprite pixel that falls on a cell, the end of a run. -/

namespace Sys2Proof.Machine

/-- The invariant of the core. Each clause rests on the spec:
the parameters keep the font below 0x200 (10_state.md R34);
memory is in canonical form inside the 4096 bytes (20_memory.md R50);
PC is at most 0x10FE (10_state.md R24);
every stack slot holds at most 0x1000 (41_flow.md R120);
while the core waits, the FX0A it waits in stands at PC and `waitReg` is its X (10_state.md R40);
a latched key belongs to a wait, and a halted core does not wait (46_timers_keys.md R215). -/
structure State.Inv (s : State) : Prop where
  cfg : s.cfg.wellFormed = true
  mem : Memory.wf s.cfg s.mem = true
  pc : s.pc.toNat ≤ 0x10FE
  stack : ∀ j (h : j < 16), s.stack[j].toNat ≤ 0x1000
  wait : s.awaiting = true → s.fetch = some (encode (.ldVxK s.waitReg))
  latch : s.latchValid = true → s.awaiting = true
  halted : s.halted = true → s.awaiting = false

/-- Every byte below 0x200 reads as reset left it: the font and the zeros of the reserved region (20_memory.md R52, R53). -/
def State.ReservedIntact (s : State) : Prop := ∀ a, a < 0x200 → s.byteAt a = unlistedByte s.cfg a

/-- A CYCLE in this state executes the instruction `i`: the core neither halted nor waiting, the word at PC fetched and decoded
(40_cycle.md R100). -/
def State.Runs (s : State) (i : Instr) : Prop :=
  s.halted = false ∧ s.awaiting = false ∧ ∃ op, s.fetch = some op ∧ decode op = .instr i

/-- The next step is a CYCLE that executes the instruction `i`. -/
def State.StepRuns (s : State) (i : Instr) : Prop := (∃ rnd, s.nextCommand.1 = .cycle rnd) ∧ s.Runs i

/-- The words that decode to `mk w` are exactly those with `w & mask = bits` (30_encoding.md R88). -/
def Encodes (mask bits : Word) (mk : Word → Instr) : Prop := ∀ w, w &&& mask = bits ↔ decode w = .instr (mk w)

/-! ## Effects with their frames

Each names what an instruction writes and says that the rest of the state is as before: every other register, every byte of
memory, and, by the last clause, every other field. -/

/-- PC <- a, and nothing else. -/
def WritesPc (a : Word) (s t : State) : Prop := (∀ q, t.byteAt q = s.byteAt q) ∧ t.pc = a ∧ t = { s with pc := t.pc }

/-- V[x] <- b; ADVANCE, and nothing else. -/
def WritesV (x : Nibble) (b : Byte) (s t : State) : Prop :=
  t.getV x = b ∧ (∀ r, r ≠ x → t.getV r = s.getV r) ∧ (∀ q, t.byteAt q = s.byteAt q) ∧
    t = { s with v := t.v, pc := s.pc + 2 }

/-- I <- a; ADVANCE, and nothing else. -/
def WritesI (a : Word) (s t : State) : Prop :=
  (∀ q, t.byteAt q = s.byteAt q) ∧ t = { s with iReg := a, pc := s.pc + 2 }

/-- The entry of a fault: the four fault registers and nothing else; PC stays at the instruction (60_exceptions.md R251, R252). -/
def Faults (code : Byte) (op : Word) (s t : State) : Prop :=
  t = { s with halted := true, faultCode := code, faultPc := s.pc, faultOp := op }

/-- What a flag instruction with destination V[x] leaves in the registers, in the order VF_ORDER names (43_alu.md R156): `r` is
the result and `f` the flag, both from the registers before; `seq` is the result computed with VF already set to `f`. -/
def FlagResult (order : VfOrder) (x : Nibble) (r seq f : Byte) (s t : State) : Prop :=
  (x ≠ vf → t.getV x = (if order = .flagFirstSeq then seq else r) ∧ t.getV vf = f) ∧
  (x = vf → t.getV vf = match order with | .flagLast => f | .resultLast => r | .flagFirstSeq => seq) ∧
  ∀ k, k ≠ x → k ≠ vf → t.getV k = s.getV k

/-- V[k] once VF holds `f`: what a result computed after the flag write reads (43_alu.md R156, FLAG_FIRST_SEQ). -/
def State.getVAfterFlag (s : State) (f : Byte) (k : Nibble) : Byte := if k = vf then f else s.getV k

/-- The column and row of the sprite pixel that falls on the cell (px, py) when a sprite is drawn at (x0, y0): the difference
of the coordinates, modulo the display under WRAP; none left of or above the start under CLIP (45_display.md R202, R203). -/
def spritePixel (edge : DrawEdge) (x0 y0 px py : Nat) : Option (Nat × Nat) :=
  match edge with
  | .wrap => some ((px + 64 - x0) % 64, (py + 32 - y0) % 32)
  | .clip => if x0 ≤ px ∧ y0 ≤ py then some (px - x0, py - y0) else none

/-- The DXYN of an `n`-row sprite at I, drawn at (x0, y0), toggles the cell (px, py): a sprite pixel with a 1 bit falls on it;
column c of row r is bit 7 − c of M[I + r] (45_display.md R201, R202). -/
def State.spriteHits (s : State) (x0 y0 n px py : Nat) : Bool :=
  match spritePixel s.cfg.drawEdge x0 y0 px py with
  | some (c, r) => decide (c < 8) && decide (r < n) && (s.byteAt (s.base + r)).getLsbD (7 - c)
  | none => false

/-- The end of a run (70_reset_and_hazards.md R289): the core is halted, or it does not wait and the instruction at PC is the
self-jump 1NNN with NNN = PC. -/
def State.RunEnded (s : State) : Prop :=
  s.halted = true ∨ (s.awaiting = false ∧ s.pc.toNat ≤ 0xFFE ∧ s.fetch = some (wordNNN 0x1 (s.pc.setWidth 12)))

end Sys2Proof.Machine
end

