-- ==== Sys2Proof/Certificates/Slice0/Obligations.lean ====
section
/-! DEFINITION. The statements for the provers, from the numbered rules of spec/. The five implementation parameters of
00_scope.md R9 stand in the state's `cfg`, so a statement about every state covers every value of them; `rnd` is the random
input of the CYCLE, so a statement about every state covers its 256 values. -/

open Sys2Proof Sys2Proof.Machine

/-! ## Encoding -/

/-- Decoding an encoded instruction gives it back, over words and over bytes, with every operand at every value; every
instruction is well formed (30_encoding.md R87, R95). -/
def Obligations.DecodeOfEncodeIsTheInstruction : Prop :=
  ∀ i : Instr, i.wellFormed = true ∧ decode (encode i) = .instr i ∧
    ∀ rest, decodeBytes (encodeBytes i ++ rest) = .ok (i, rest)

/-- 30_encoding.md R95: decode is total; a defined word decodes to exactly one instruction, whose fields give the word back,
the ignored Y included; Unknown carries the word. -/
def Obligations.EveryWordIsOneInstructionOrUnknown : Prop :=
  ∀ op : Word, (∃ i, decode op = .instr i ∧ encode i = op ∧ ∀ j, encode j = op → j = i) ∨
    (decode op = .unknown op ∧ ∀ j, encode j ≠ op)

/-- 30_encoding.md R84, R85: each of the 34 instructions is what exactly the words of its mask and match (R88) decode to, with the
fields of R81; no word matches two rows; a word that matches none is Unknown and carried whole. -/
def Obligations.WordsDecodeByMaskAndMatch : Prop :=
  (Encodes 0xFFFF 0x00E0 (fun _ => .cls) ∧ Encodes 0xFFFF 0x00EE (fun _ => .ret) ∧
   Encodes 0xF000 0x1000 (fun w => .jp (fieldNNN w)) ∧ Encodes 0xF000 0x2000 (fun w => .call (fieldNNN w)) ∧
   Encodes 0xF000 0x3000 (fun w => .seImm (fieldX w) (fieldNN w)) ∧
   Encodes 0xF000 0x4000 (fun w => .sneImm (fieldX w) (fieldNN w)) ∧
   Encodes 0xF00F 0x5000 (fun w => .seReg (fieldX w) (fieldY w)) ∧
   Encodes 0xF000 0x6000 (fun w => .ldImm (fieldX w) (fieldNN w)) ∧
   Encodes 0xF000 0x7000 (fun w => .addImm (fieldX w) (fieldNN w))) ∧
  (Encodes 0xF00F 0x8000 (fun w => .ldReg (fieldX w) (fieldY w)) ∧
   Encodes 0xF00F 0x8001 (fun w => .or (fieldX w) (fieldY w)) ∧
   Encodes 0xF00F 0x8002 (fun w => .and (fieldX w) (fieldY w)) ∧
   Encodes 0xF00F 0x8003 (fun w => .xor (fieldX w) (fieldY w)) ∧
   Encodes 0xF00F 0x8004 (fun w => .addReg (fieldX w) (fieldY w)) ∧
   Encodes 0xF00F 0x8005 (fun w => .sub (fieldX w) (fieldY w)) ∧
   Encodes 0xF00F 0x8006 (fun w => .shr (fieldX w) (fieldY w)) ∧
   Encodes 0xF00F 0x8007 (fun w => .subn (fieldX w) (fieldY w)) ∧
   Encodes 0xF00F 0x800E (fun w => .shl (fieldX w) (fieldY w)) ∧
   Encodes 0xF00F 0x9000 (fun w => .sneReg (fieldX w) (fieldY w))) ∧
  (Encodes 0xF000 0xA000 (fun w => .ldI (fieldNNN w)) ∧ Encodes 0xF000 0xB000 (fun w => .jpV0 (fieldNNN w)) ∧
   Encodes 0xF000 0xC000 (fun w => .rnd (fieldX w) (fieldNN w)) ∧
   Encodes 0xF000 0xD000 (fun w => .drw (fieldX w) (fieldY w) (fieldN w)) ∧
   Encodes 0xF0FF 0xE09E (fun w => .skp (fieldX w)) ∧ Encodes 0xF0FF 0xE0A1 (fun w => .sknp (fieldX w))) ∧
  (Encodes 0xF0FF 0xF007 (fun w => .ldVxDt (fieldX w)) ∧ Encodes 0xF0FF 0xF00A (fun w => .ldVxK (fieldX w)) ∧
   Encodes 0xF0FF 0xF015 (fun w => .ldDtVx (fieldX w)) ∧ Encodes 0xF0FF 0xF018 (fun w => .ldStVx (fieldX w)) ∧
   Encodes 0xF0FF 0xF01E (fun w => .addIVx (fieldX w)) ∧ Encodes 0xF0FF 0xF029 (fun w => .ldFVx (fieldX w)) ∧
   Encodes 0xF0FF 0xF033 (fun w => .ldBVx (fieldX w)) ∧ Encodes 0xF0FF 0xF055 (fun w => .ldMemVx (fieldX w)) ∧
   Encodes 0xF0FF 0xF065 (fun w => .ldVxMem (fieldX w))) ∧
  (∀ op : Word, ∀ r ∈ opcodeTable, ∀ q ∈ opcodeTable, r.admits op = true → q.admits op = true → r = q) ∧
  ∀ op : Word, (∀ r ∈ opcodeTable, r.admits op = false) → decode op = .unknown op

/-- The Unknown space is the table of 30_encoding.md R90 (its counts of words apart), 0NNN among it (R92). -/
def Obligations.UnknownSpaceIsTheListedWords : Prop :=
  ∀ op : Word, decode op = .unknown op ↔
    (family op = 0x0 ∧ op ≠ 0x00E0 ∧ op ≠ 0x00EE) ∨ (family op = 0x5 ∧ fieldN op ≠ 0x0) ∨
    (family op = 0x8 ∧ fieldN op ∈ ([0x8, 0x9, 0xA, 0xB, 0xC, 0xD, 0xF] : List Nibble)) ∨
    (family op = 0x9 ∧ fieldN op ≠ 0x0) ∨ (family op = 0xE ∧ fieldNN op ∉ ([0x9E, 0xA1] : List Byte)) ∨
    (family op = 0xF ∧ fieldNN op ∉ ([0x07, 0x0A, 0x15, 0x18, 0x1E, 0x29, 0x33, 0x55, 0x65] : List Byte))

/-- Eleven written-out words, of the families 0, 2, 4, 8, 9, B, D, E and F: ten decode to the instructions they stand for, and 0123 to
Unknown (30_encoding.md R84, R86, R92). -/
def Obligations.WrittenOutWordsDecode : Prop :=
  decode 0x00EE = .instr .ret ∧ decode 0x2ABC = .instr (.call 0xABC) ∧ decode 0x4A5C = .instr (.sneImm 0xA 0x5C) ∧
  decode 0x9AB0 = .instr (.sneReg 0xA 0xB) ∧ decode 0x8AB5 = .instr (.sub 0xA 0xB) ∧
  decode 0x8AB7 = .instr (.subn 0xA 0xB) ∧ decode 0xB123 = .instr (.jpV0 0x123) ∧ decode 0xDAB5 = .instr (.drw 0xA 0xB 5) ∧
  decode 0xE3A1 = .instr (.sknp 0x3) ∧ decode 0xF355 = .instr (.ldMemVx 0x3) ∧ decode 0x0123 = .unknown 0x0123

/-! ## The cycle -/

/-- 40_cycle.md R100: when the bytes at PC decode to an instruction, a step of a core that is neither halted nor waiting is exec of
that instruction, with the CYCLE's random input in `rnd` and the CYCLE's response put on the response port. The command is the
oldest pending one, or, with none pending, a CYCLE with the next free random byte (log entries 6 and 7). -/
def Obligations.StepRunsTheDecodedInstruction : Prop :=
  ∀ (s : State) (i : Instr), s.halted = false → s.awaiting = false → s.pc.toNat ≤ 0xFFE →
    decode (joinBytes (s.byteAt s.pc.toNat) (s.byteAt (s.pc.toNat + 1))) = .instr i →
    (s.pending = [] → ∃ t, exec i { s with draws := s.draws + 1, rnd := Config.draw s.draws } = .next t ∧
      step s = .next { t with resp := if t.halted then .fault t.faultCode t.faultPc t.faultOp else .ok }) ∧
    ∀ rnd cs, s.pending = .cycle rnd :: cs → ∃ t, exec i { s with pending := cs, rnd := rnd } = .next t ∧
      step s = .next { t with resp := if t.halted then .fault t.faultCode t.faultPc t.faultOp else .ok }

/-- 40_cycle.md R102: the fetch forms M[PC] × 256 + M[PC+1] at every PC up to 0xFFE, odd or even, and faults with code 0x01 and
opcode 0x0000 beyond. -/
def Obligations.FetchIsBigEndianAndBounded : Prop :=
  ∀ (s : State) (rnd : Byte), s.halted = false → s.awaiting = false →
    (s.pc.toNat ≤ 0xFFE →
      s.fetch = some (BitVec.ofNat 16 ((s.byteAt s.pc.toNat).toNat * 256 + (s.byteAt (s.pc.toNat + 1)).toNat))) ∧
    (0xFFE < s.pc.toNat → perform (.cycle rnd) s = .next
      { s with rnd := rnd, halted := true, faultCode := 0x01, faultPc := s.pc, faultOp := 0x0000,
               resp := .fault 0x01 s.pc 0x0000 })

/-- 40_cycle.md R105: an Unknown word faults with code 0x04, the word and its address recorded. -/
def Obligations.UnknownWordFaults : Prop :=
  ∀ (s : State) (rnd : Byte) (op : Word), s.halted = false → s.awaiting = false → s.fetch = some op →
    decode op = .unknown op → perform (.cycle rnd) s = .next
      { s with rnd := rnd, halted := true, faultCode := 0x04, faultPc := s.pc, faultOp := op,
               resp := .fault 0x04 s.pc op }

/-- 40_cycle.md R101: a CYCLE of a waiting core completes FX0A when a key is latched, and changes nothing otherwise. -/
def Obligations.WaitStepCompletesOrChangesNothing : Prop :=
  ∀ (s : State) (rnd : Byte), s.halted = false → s.awaiting = true →
    (s.latchValid = false → perform (.cycle rnd) s = .next { s with rnd := rnd, resp := .ok }) ∧
    (s.latchValid = true → ∃ t, perform (.cycle rnd) s = .next t ∧ (t.getV s.waitReg).toNat = s.latchKey.toNat ∧
      (∀ r, r ≠ s.waitReg → t.getV r = s.getV r) ∧ (∀ q, t.byteAt q = s.byteAt q) ∧
      t = { s with v := t.v, pc := s.pc + 2, awaiting := false, latchValid := false, rnd := rnd, resp := .ok })

/-- 40_cycle.md R107: a CYCLE that does not execute CXNN does the same for every random input. -/
def Obligations.RandomInputIsReadOnlyByRnd : Prop :=
  ∀ (s t : State) (a b : Byte), (¬∃ x nn, s.Runs (.rnd x nn)) → perform (.cycle a) s = .next t →
    perform (.cycle b) s = .next { t with rnd := b }

/-- 40_cycle.md R108: a CYCLE never changes K, changes DT only by FX15, ST only by FX18, the display only by 00E0 and DXYN. -/
def Obligations.CycleKeepsTimersKeysAndDisplay : Prop :=
  ∀ (s t : State) (rnd : Byte), perform (.cycle rnd) s = .next t →
    t.keys = s.keys ∧ (t.dt ≠ s.dt → ∃ x, s.Runs (.ldDtVx x)) ∧ (t.st ≠ s.st → ∃ x, s.Runs (.ldStVx x)) ∧
    (t.display ≠ s.display → s.Runs .cls ∨ ∃ x y n, s.Runs (.drw x y n))

/-- 40_cycle.md R104: an instruction that does not fault writes PC in one of four ways. -/
def Obligations.PcIsWrittenInFourWays : Prop :=
  ∀ (i : Instr) (s t : State), s.halted = false → exec i s = .next t → t.halted = false →
    match i with
    | .seImm _ _ | .sneImm _ _ | .seReg _ _ | .sneReg _ _ | .skp _ | .sknp _ => t.pc = s.pc + 2 ∨ t.pc = s.pc + 4
    | .ret => ∃ h : 0 < s.sp.val, t.pc = s.stack[s.sp.val - 1]
    | .jp nnn | .call nnn => t.pc.toNat = nnn.toNat
    | .jpV0 nnn => t.pc.toNat = nnn.toNat + (s.getV 0x0).toNat
    | .ldVxK _ => t.pc = s.pc
    | _ => t.pc = s.pc + 2

/-! ## Faults -/

/-- 60_exceptions.md R251, R252: a CYCLE that faults writes the four fault registers, answers Fault with them, and changes
nothing else (`rnd` and `resp` are ports); the recorded opcode is the fetched word, 0x0000 when none was fetched. -/
def Obligations.FaultsArePrecise : Prop :=
  ∀ (s t : State) (rnd : Byte), s.halted = false → perform (.cycle rnd) s = .next t → t.halted = true →
    t = { s with rnd := rnd, halted := true, faultCode := t.faultCode, faultPc := s.pc, faultOp := s.fetch.getD 0x0000,
                 resp := .fault t.faultCode s.pc (s.fetch.getD 0x0000) } ∧
    t.faultCode ∈ ([0x01, 0x02, 0x03, 0x04, 0x05, 0x06, 0x07] : List Byte)

/-- 60_exceptions.md R250, the causes of codes 0x02, 0x03, 0x05, 0x06 and 0x07: no other instruction faults, and each of these
only on its cause; an instruction that does not fault leaves the fault registers alone. -/
def Obligations.OnlyTheListedInstructionsFault : Prop :=
  ∀ (i : Instr) (s t : State), s.halted = false → exec i s = .next t →
    (t.halted = false → t.faultCode = s.faultCode ∧ t.faultPc = s.faultPc ∧ t.faultOp = s.faultOp) ∧
    (t.halted = true →
      (∃ nnn, i = .call nnn ∧ s.sp.val = 16 ∧ t.faultCode = 0x02) ∨ (i = .ret ∧ s.sp.val = 0 ∧ t.faultCode = 0x03) ∨
      (∃ x y n, i = .drw x y n ∧ n.toNat ≠ 0 ∧ 0xFFF < s.iReg.toNat + n.toNat - 1 ∧ t.faultCode = 0x05) ∨
      (∃ x, i = .ldBVx x ∧ (0xFFF < s.iReg.toNat + 2 ∧ t.faultCode = 0x05 ∨ s.iReg.toNat < 0x200 ∧ t.faultCode = 0x06)) ∨
      (∃ x, i = .ldMemVx x ∧
        (0xFFF < s.iReg.toNat + x.toNat ∧ t.faultCode = 0x05 ∨ s.iReg.toNat < 0x200 ∧ t.faultCode = 0x06)) ∨
      (∃ x, i = .ldVxMem x ∧ 0xFFF < s.iReg.toNat + x.toNat ∧ t.faultCode = 0x05) ∨
      ∃ x, (i = .skp x ∨ i = .sknp x ∨ i = .ldFVx x) ∧ 0x0F < (s.getV x).toNat ∧ t.faultCode = 0x07)

/-- 44_index_memory.md R184: the range checks pass exactly when every byte of the range may be accessed, and the cause they name
carries the lowest offending address. -/
def Obligations.RangeChecksNameTheLowestBadAddress : Prop :=
  ∀ (a n : Nat), 1 ≤ n →
    (checkRead a n = none ↔ ∀ k, k < n → a + k ≤ 0xFFF) ∧
    (checkWrite a n = none ↔ ∀ k, k < n → a + k ≤ 0xFFF ∧ 0x200 ≤ a + k) ∧
    (∀ c, checkRead a n = some c → ∃ k, k < n ∧ 0xFFF < a + k ∧ c = .memoryOutOfBounds (a + k) ∧
      ∀ j, j < k → a + j ≤ 0xFFF) ∧
    ∀ c, checkWrite a n = some c → (∃ k, k < n ∧ 0xFFF < a + k ∧ c = .memoryOutOfBounds (a + k) ∧
      ∀ j, j < k → a + j ≤ 0xFFF) ∨ ((∀ k, k < n → a + k ≤ 0xFFF) ∧ a < 0x200 ∧ c = .reservedWrite a)

/-- 60_exceptions.md R254: a halted core answers its recorded fault to CYCLE and TICK and changes nothing, takes SET_KEY into K
only, and leaves the halted state by an accepted LOAD only. The second premise holds by the invariant (46_timers_keys.md
R215). -/
def Obligations.HaltedCoreStaysHalted : Prop :=
  ∀ s : State, s.halted = true → s.awaiting = false →
    (∀ rnd, perform (.cycle rnd) s = .next { s with rnd := rnd, resp := .fault s.faultCode s.faultPc s.faultOp }) ∧
    perform .tick s = .next { s with resp := .fault s.faultCode s.faultPc s.faultOp } ∧
    (∀ k p (h : k.toNat < 16), perform (.setKey k p) s = .next { s with keys := s.keys.set k.toNat p, resp := .ok }) ∧
    (∀ image, image.length ≤ 3584 → ∃ t, perform (.load image) s = .next t ∧ t.halted = false ∧ t.faultCode = 0x00) ∧
    ∀ image, 3584 < image.length → perform (.load image) s = .next { s with resp := .rejected .loadError }

/-! ## Host commands -/

/-- 47_interface.md R236, R237 and 46_timers_keys.md R214: SET_KEY rejects an index above 15 with no change of state, latches
the first released-to-pressed key of a wait, and sets K[k]. -/
def Obligations.SetKeySetsTheKeyAndLatches : Prop :=
  ∀ (s : State) (k : Byte) (p : Bool),
    (15 < k.toNat → perform (.setKey k p) s = .next { s with resp := .rejected .invalidKeyIndex }) ∧
    ∀ h : k.toNat < 16,
      (p = true ∧ s.keys[k.toNat] = false ∧ s.awaiting = true ∧ s.latchValid = false →
        perform (.setKey k p) s = .next { s with latchKey := BitVec.ofNat 4 k.toNat, latchValid := true,
                                                 keys := s.keys.set k.toNat p, resp := .ok }) ∧
      (¬(p = true ∧ s.keys[k.toNat] = false ∧ s.awaiting = true ∧ s.latchValid = false) →
        perform (.setKey k p) s = .next { s with keys := s.keys.set k.toNat p, resp := .ok })

/-- 60_exceptions.md R262: a TICK lowers each timer that is above zero by one, and changes nothing else; a halted core answers
its recorded fault and keeps its timers. -/
def Obligations.TickCountsBothTimersDown : Prop :=
  ∀ s : State,
    (s.halted = false → ∃ t, perform .tick s = .next t ∧ t.dt.toNat = s.dt.toNat - 1 ∧ t.st.toNat = s.st.toNat - 1 ∧
      t = { s with dt := t.dt, st := t.st, resp := .ok }) ∧
    (s.halted = true → perform .tick s = .next { s with resp := .fault s.faultCode s.faultPc s.faultOp })

/-- 47_interface.md R231, 70_reset_and_hazards.md R280, R282, R283, R286: LOAD of at most 3584 bytes resets everything but K and
copies the image to 0x200; the bytes outside the image are those of reset, the font included; a longer image is rejected and
changes nothing. The fields of the last clause are parameters, ports and the model's own (log entries 1, 6, 7, 8). -/
def Obligations.LoadResetsAndCopiesTheImage : Prop :=
  ∀ (s : State) (image : List Byte),
    (3584 < image.length → perform (.load image) s = .next { s with resp := .rejected .loadError }) ∧
    (image.length ≤ 3584 → ∃ t, perform (.load image) s = .next t ∧
      (∀ j (h : j < image.length), t.byteAt (0x200 + j) = image[j]) ∧
      (∀ q, q < 0x200 ∨ 0x200 + image.length ≤ q → q < s.cfg.fontBase ∨ s.cfg.fontBase + 80 ≤ q → t.byteAt q = 0x00) ∧
      (s.cfg.wellFormed = true → ∀ g j (hg : g < 16) (hj : j < 5),
        t.byteAt (s.cfg.fontBase + 5 * g + j) = s.cfg.fontGlyphs[g][j]) ∧
      (∀ x, t.getV x = 0x00) ∧ (∀ j (h : j < 16), t.stack[j] = 0x0000) ∧ (∀ x y, t.cell x y = false) ∧
      t.pc = 0x200 ∧ t.iReg = 0x0000 ∧ t.sp = 0 ∧ t.dt = 0x00 ∧ t.st = 0x00 ∧
      t.awaiting = false ∧ t.waitReg = 0 ∧ t.latchValid = false ∧ t.latchKey = 0 ∧
      t.halted = false ∧ t.faultCode = 0x00 ∧ t.faultPc = 0x0000 ∧ t.faultOp = 0x0000 ∧ t.keys = s.keys ∧
      t.cfg = s.cfg ∧ t.rnd = s.rnd ∧ t.resp = .ok ∧ t.pending = s.pending ∧ t.draws = s.draws)

/-! ## The whole machine -/

/-- Every step answers a next state: no instruction, word or host command stops the model (47_interface.md R230: every command
has a response). -/
def Obligations.EveryStepAnswersNext : Prop := ∀ s : State, ∃ t, step s = .next t

/-- Every step keeps the invariant of the core (`State.Inv`). -/
def Obligations.StepKeepsTheInvariant : Prop := ∀ s t : State, s.Inv → step s = .next t → t.Inv

/-- 70_reset_and_hazards.md R281: construction leaves the reset state of R280 with every key released, and a CYCLE issued then faults
on the word 0x0000 at 0x200. -/
def Obligations.ConstructionIsTheResetState : Prop :=
  let s := State.reset
  (s.pc = 0x200 ∧ s.iReg = 0x0000 ∧ s.sp = 0 ∧ s.dt = 0x00 ∧ s.st = 0x00) ∧
  (∀ x, s.getV x = 0x00) ∧ (∀ j (h : j < 16), s.stack[j] = 0x0000) ∧ (∀ x y, s.cell x y = false) ∧
  (∀ k (h : k < 16), s.keys[k] = false) ∧
  (∀ g j (hg : g < 16) (hj : j < 5), s.byteAt (s.cfg.fontBase + 5 * g + j) = s.cfg.fontGlyphs[g][j]) ∧
  (∀ q, q < s.cfg.fontBase ∨ s.cfg.fontBase + 80 ≤ q → s.byteAt q = 0x00) ∧
  (s.awaiting = false ∧ s.waitReg = 0 ∧ s.latchValid = false ∧ s.latchKey = 0) ∧
  (s.halted = false ∧ s.faultCode = 0x00 ∧ s.faultPc = 0x0000 ∧ s.faultOp = 0x0000) ∧
  ∀ rnd, perform (.cycle rnd) s = .next
    { s with rnd := rnd, halted := true, faultCode := 0x04, faultPc := 0x200, faultOp := 0x0000,
             resp := .fault 0x04 0x200 0x0000 }

/-- The invariant holds after reset, and the reserved region is intact there. -/
def Obligations.ResetMeetsTheInvariant : Prop := State.reset.Inv ∧ State.reset.ReservedIntact

/-- 10_state.md R34, 20_memory.md R53: no step changes a byte below 0x200, so the font stays as reset wrote it. -/
def Obligations.StepKeepsTheReservedRegion : Prop :=
  ∀ s t : State, s.Inv → s.ReservedIntact → step s = .next t → t.ReservedIntact ∧
    ∀ g j (hg : g < 16) (hj : j < 5), t.byteAt (t.cfg.fontBase + 5 * g + j) = s.cfg.fontGlyphs[g][j]

/-- No step changes the parameters, and each step takes one command: the oldest pending one, or a CYCLE with a fresh draw (log
entries 1, 6 and 7). -/
def Obligations.StepKeepsParametersAndTakesOneCommand : Prop :=
  ∀ s t : State, step s = .next t →
    t.cfg = s.cfg ∧ t.pending = s.pending.tail ∧ t.draws = if s.pending = [] then s.draws + 1 else s.draws

/-- 20_memory.md R67, R53: a byte of memory changes only by an accepted LOAD or by FX33 and FX55, and by these only at 0x200 and
above. -/
def Obligations.MemoryChangesOnlyByStoresAndLoad : Prop :=
  ∀ (s t : State) (q : Nat), s.Inv → step s = .next t → t.byteAt q ≠ s.byteAt q →
    (∃ image, s.nextCommand.1 = .load image ∧ image.length ≤ 3584) ∨
    (0x200 ≤ q ∧ q < 4096 ∧ ∃ x, s.StepRuns (.ldBVx x) ∨ s.StepRuns (.ldMemVx x))

/-- 45_display.md R204: the display changes only by 00E0, DXYN and an accepted LOAD, which clears it. -/
def Obligations.DisplayChangesOnlyByDrawingAndLoad : Prop :=
  ∀ s t : State, step s = .next t → t.display ≠ s.display →
    (∃ image, s.nextCommand.1 = .load image ∧ image.length ≤ 3584 ∧ ∀ x y, t.cell x y = false) ∨
    s.StepRuns .cls ∨ ∃ x y n, s.StepRuns (.drw x y n)

/-- 10_state.md R26, R27, 41_flow.md R125: only 2NNN and 00EE touch the stack; a call writes the one slot S[SP], a return none. -/
def Obligations.StackChangesOnlyByCallAndReturn : Prop :=
  ∀ (i : Instr) (s t : State), exec i s = .next t →
    (t.sp ≠ s.sp ∨ t.stack ≠ s.stack → (∃ nnn, i = .call nnn) ∨ i = .ret) ∧
    (∀ j (h : j < 16), t.stack[j] ≠ s.stack[j] → j = s.sp.val ∧ ∃ nnn, i = .call nnn)

/-- 10_state.md R21: an instruction changes VF only as one of the six side-effect writers, or with VF as its named destination. -/
def Obligations.VfChangesOnlyByItsWriters : Prop :=
  ∀ (i : Instr) (s t : State), exec i s = .next t → t.getV vf ≠ s.getV vf →
    (∃ x y, i = .addReg x y ∨ i = .sub x y ∨ i = .shr x y ∨ i = .subn x y ∨ i = .shl x y) ∨ (∃ x y n, i = .drw x y n) ∨
    (∃ nn, i = .ldImm vf nn ∨ i = .addImm vf nn ∨ i = .rnd vf nn) ∨
    (∃ y, i = .ldReg vf y ∨ i = .or vf y ∨ i = .and vf y ∨ i = .xor vf y) ∨ i = .ldVxDt vf ∨ i = .ldVxMem vf

/-! ## Control transfer -/

/-- 41_flow.md R121, R123: 1NNN loads PC with NNN, BNNN with the exact sum NNN + V0; nothing else changes. -/
def Obligations.JumpsLoadPc : Prop :=
  (Encodes 0xF000 0x1000 (fun w => .jp (fieldNNN w)) ∧ Encodes 0xF000 0xB000 (fun w => .jpV0 (fieldNNN w))) ∧
  ∀ (nnn : Addr) (s : State),
    (∃ t, exec (.jp nnn) s = .next t ∧ t.pc.toNat = nnn.toNat ∧ WritesPc t.pc s t) ∧
    ∃ t, exec (.jpV0 nnn) s = .next t ∧ t.pc.toNat = nnn.toNat + (s.getV 0x0).toNat ∧ WritesPc t.pc s t

/-- 41_flow.md R122: 2NNN pushes PC + 2 and loads PC with NNN; with SP = 16 it faults with code 0x02. -/
def Obligations.CallPushesTheReturnAddress : Prop :=
  Encodes 0xF000 0x2000 (fun w => .call (fieldNNN w)) ∧
  ∀ (nnn : Addr) (s : State),
    (∀ h : s.sp.val < 16, ∃ t, exec (.call nnn) s = .next t ∧ t.stack = s.stack.set s.sp.val (s.pc + 2) ∧
      t.sp.val = s.sp.val + 1 ∧ t.pc.toNat = nnn.toNat ∧ (∀ q, t.byteAt q = s.byteAt q) ∧
      t = { s with stack := t.stack, sp := t.sp, pc := t.pc }) ∧
    (s.sp.val = 16 → ∃ t, exec (.call nnn) s = .next t ∧ Faults 0x02 (encode (.call nnn)) s t)

/-- 41_flow.md R120: 00EE decrements SP and loads PC with S[SP], which keeps its value; with SP = 0 it faults with code 0x03. -/
def Obligations.ReturnPopsTheReturnAddress : Prop :=
  Encodes 0xFFFF 0x00EE (fun _ => .ret) ∧
  ∀ s : State,
    (∀ h : 0 < s.sp.val, ∃ t, exec .ret s = .next t ∧ t.pc = s.stack[s.sp.val - 1] ∧ t.sp.val = s.sp.val - 1 ∧
      (∀ q, t.byteAt q = s.byteAt q) ∧ t = { s with sp := t.sp, pc := t.pc }) ∧
    (s.sp.val = 0 → ∃ t, exec .ret s = .next t ∧ Faults 0x03 0x00EE s t)

/-- A call followed by a return ends at PC + 2 with SP as before (41_flow.md R122, 90_conflicts.md C3). -/
def Obligations.CallThenReturnComesBack : Prop :=
  ∀ (nnn : Addr) (s : State), s.sp.val < 16 → ∃ t u, exec (.call nnn) s = .next t ∧ exec .ret t = .next u ∧
    u.pc = s.pc + 2 ∧ u.sp = s.sp ∧ u = { s with stack := u.stack, pc := u.pc }

/-! ## Skips -/

/-- 42_skip.md R140, R141, R142, R143: PC advances by 4 when the comparison holds and by 2 otherwise; nothing else changes. -/
def Obligations.SkipsCompareRegisters : Prop :=
  (Encodes 0xF000 0x3000 (fun w => .seImm (fieldX w) (fieldNN w)) ∧
   Encodes 0xF000 0x4000 (fun w => .sneImm (fieldX w) (fieldNN w)) ∧
   Encodes 0xF00F 0x5000 (fun w => .seReg (fieldX w) (fieldY w)) ∧
   Encodes 0xF00F 0x9000 (fun w => .sneReg (fieldX w) (fieldY w))) ∧
  ∀ (x y : Nibble) (nn : Byte) (s : State),
    (∃ t, exec (.seImm x nn) s = .next t ∧ WritesPc (if s.getV x = nn then s.pc + 4 else s.pc + 2) s t) ∧
    (∃ t, exec (.sneImm x nn) s = .next t ∧ WritesPc (if s.getV x ≠ nn then s.pc + 4 else s.pc + 2) s t) ∧
    (∃ t, exec (.seReg x y) s = .next t ∧ WritesPc (if s.getV x = s.getV y then s.pc + 4 else s.pc + 2) s t) ∧
    ∃ t, exec (.sneReg x y) s = .next t ∧ WritesPc (if s.getV x ≠ s.getV y then s.pc + 4 else s.pc + 2) s t

/-- 46_timers_keys.md R210, R211: the key skips test the level of K[V[X]], and fault with code 0x07 when V[X] > 0x0F. -/
def Obligations.KeySkipsTestTheKeyLevel : Prop :=
  (Encodes 0xF0FF 0xE09E (fun w => .skp (fieldX w)) ∧ Encodes 0xF0FF 0xE0A1 (fun w => .sknp (fieldX w))) ∧
  ∀ (x : Nibble) (s : State),
    (∀ h : (s.getV x).toNat < 16,
      (∃ t, exec (.skp x) s = .next t ∧
        WritesPc (if s.keys[(s.getV x).toNat] = true then s.pc + 4 else s.pc + 2) s t) ∧
      ∃ t, exec (.sknp x) s = .next t ∧
        WritesPc (if s.keys[(s.getV x).toNat] = false then s.pc + 4 else s.pc + 2) s t) ∧
    (0x0F < (s.getV x).toNat →
      (∃ t, exec (.skp x) s = .next t ∧ Faults 0x07 (encode (.skp x)) s t) ∧
      ∃ t, exec (.sknp x) s = .next t ∧ Faults 0x07 (encode (.sknp x)) s t)

/-! ## Registers and the ALU -/

/-- 43_alu.md R150, R151: V[X] <- NN, and V[X] <- (V[X] + NN) mod 256 with no flag. -/
def Obligations.ImmediateLoadAndAdd : Prop :=
  (Encodes 0xF000 0x6000 (fun w => .ldImm (fieldX w) (fieldNN w)) ∧
   Encodes 0xF000 0x7000 (fun w => .addImm (fieldX w) (fieldNN w))) ∧
  ∀ (x : Nibble) (nn : Byte) (s : State),
    (∃ t, exec (.ldImm x nn) s = .next t ∧ WritesV x nn s t) ∧
    ∃ t, exec (.addImm x nn) s = .next t ∧ WritesV x (BitVec.ofNat 8 (((s.getV x).toNat + nn.toNat) % 256)) s t

/-- 43_alu.md R152, R153, R154, R155: copy, OR, AND and XOR write V[X] bit by bit and leave VF alone unless it is V[X]. -/
def Obligations.CopyAndLogicKeepVf : Prop :=
  (Encodes 0xF00F 0x8000 (fun w => .ldReg (fieldX w) (fieldY w)) ∧
   Encodes 0xF00F 0x8001 (fun w => .or (fieldX w) (fieldY w)) ∧
   Encodes 0xF00F 0x8002 (fun w => .and (fieldX w) (fieldY w)) ∧
   Encodes 0xF00F 0x8003 (fun w => .xor (fieldX w) (fieldY w))) ∧
  ∀ (x y : Nibble) (s : State),
    (∃ t, exec (.ldReg x y) s = .next t ∧ WritesV x (s.getV y) s t) ∧
    (∃ t, exec (.or x y) s = .next t ∧ WritesV x (t.getV x) s t ∧
      ∀ k, k < 8 → (t.getV x).getLsbD k = ((s.getV x).getLsbD k || (s.getV y).getLsbD k)) ∧
    (∃ t, exec (.and x y) s = .next t ∧ WritesV x (t.getV x) s t ∧
      ∀ k, k < 8 → (t.getV x).getLsbD k = ((s.getV x).getLsbD k && (s.getV y).getLsbD k)) ∧
    ∃ t, exec (.xor x y) s = .next t ∧ WritesV x (t.getV x) s t ∧
      ∀ k, k < 8 → (t.getV x).getLsbD k = ((s.getV x).getLsbD k != (s.getV y).getLsbD k)

/-- 43_alu.md R156, R157, R158, R159, R160, R161: the five flag instructions in every VF_ORDER, for every X and Y, VF among them.
`f` is the flag of the registers before; `a'` and `b'` are the operands once VF holds the flag, read by FLAG_FIRST_SEQ only.
The shifts take V[X], and Y has no effect. -/
def Obligations.FlagInstructionsInEveryOrder : Prop :=
  (Encodes 0xF00F 0x8004 (fun w => .addReg (fieldX w) (fieldY w)) ∧
   Encodes 0xF00F 0x8005 (fun w => .sub (fieldX w) (fieldY w)) ∧
   Encodes 0xF00F 0x8006 (fun w => .shr (fieldX w) (fieldY w)) ∧
   Encodes 0xF00F 0x8007 (fun w => .subn (fieldX w) (fieldY w)) ∧
   Encodes 0xF00F 0x800E (fun w => .shl (fieldX w) (fieldY w))) ∧
  ∀ (i : Instr) (x y : Nibble) (f : Byte) (r : Nat → Nat → Nat) (s : State),
    let a := (s.getV x).toNat
    let b := (s.getV y).toNat
    let a' := (s.getVAfterFlag f x).toNat
    let b' := (s.getVAfterFlag f y).toNat
    (i = .addReg x y ∧ f = (if 0xFF < a + b then 1 else 0) ∧ r = (fun a b => (a + b) % 256)) ∨
    (i = .sub x y ∧ f = (if b ≤ a then 1 else 0) ∧ r = (fun a b => (a + 256 - b) % 256)) ∨
    (i = .shr x y ∧ f = (if a % 2 = 1 then 1 else 0) ∧ r = (fun a _ => a / 2)) ∨
    (i = .subn x y ∧ f = (if a ≤ b then 1 else 0) ∧ r = (fun a b => (b + 256 - a) % 256)) ∨
    (i = .shl x y ∧ f = (if 128 ≤ a then 1 else 0) ∧ r = (fun a _ => (2 * a) % 256)) →
    ∃ t, exec i s = .next t ∧
      FlagResult s.cfg.vfOrder x (BitVec.ofNat 8 (r a b)) (BitVec.ofNat 8 (r a' b')) f s t ∧
      (∀ q, t.byteAt q = s.byteAt q) ∧ t = { s with v := t.v, pc := s.pc + 2 }

/-- 43_alu.md R164, the rows of the flag instructions, whatever VF_ORDER is: with X and Y other than F they leave these results
in V[X] and VF. -/
def Obligations.FlagTableAwayFromVf : Prop :=
  ∀ (x y : Nibble) (s : State), x ≠ vf → y ≠ vf →
    (∃ t, exec (.addReg x y) s = .next t ∧ t.getV x = s.getV x + s.getV y ∧
      t.getV vf = if 255 < (s.getV x).toNat + (s.getV y).toNat then 1 else 0) ∧
    (∃ t, exec (.sub x y) s = .next t ∧ t.getV x = s.getV x - s.getV y ∧
      t.getV vf = if (s.getV y).toNat ≤ (s.getV x).toNat then 1 else 0) ∧
    (∃ t, exec (.shr x y) s = .next t ∧ t.getV x = s.getV x >>> 1 ∧
      t.getV vf = if (s.getV x).getLsbD 0 then 1 else 0) ∧
    (∃ t, exec (.subn x y) s = .next t ∧ t.getV x = s.getV y - s.getV x ∧
      t.getV vf = if (s.getV x).toNat ≤ (s.getV y).toNat then 1 else 0) ∧
    ∃ t, exec (.shl x y) s = .next t ∧ t.getV x = s.getV x <<< 1 ∧
      t.getV vf = if (s.getV x).getLsbD 7 then 1 else 0

/-- 43_alu.md R162: V[X] <- rnd & NN, with the random input of the current CYCLE, whatever it is. -/
def Obligations.RandomByteIsMasked : Prop :=
  Encodes 0xF000 0xC000 (fun w => .rnd (fieldX w) (fieldNN w)) ∧
  ∀ (x : Nibble) (nn : Byte) (s : State),
    (∃ t, exec (.rnd x nn) s = .next t ∧ WritesV x (s.rnd &&& nn) s t) ∧
    ∀ rnd, s.Runs (.rnd x nn) → ∃ t, perform (.cycle rnd) s = .next t ∧ t.getV x = rnd &&& nn ∧
      ∀ k, k < 8 → nn.getLsbD k = false → (t.getV x).getLsbD k = false

/-! ## Index register and memory -/

/-- 44_index_memory.md R180, R181: I <- NNN, and I <- (I + V[X]) mod 2^16 with VF unchanged. -/
def Obligations.IndexIsSetAndAdded : Prop :=
  (Encodes 0xF000 0xA000 (fun w => .ldI (fieldNNN w)) ∧ Encodes 0xF0FF 0xF01E (fun w => .addIVx (fieldX w))) ∧
  (∀ (nnn : Addr) (s : State), ∃ t, exec (.ldI nnn) s = .next t ∧ WritesI (BitVec.ofNat 16 nnn.toNat) s t) ∧
  ∀ (x : Nibble) (s : State), ∃ t, exec (.addIVx x) s = .next t ∧
    WritesI (BitVec.ofNat 16 ((s.iReg.toNat + (s.getV x).toNat) % 2 ^ 16)) s t

/-- 44_index_memory.md R182: I <- FONT_BASE + 5 × V[X] for the parameters' FONT_BASE, with a fault of code 0x07 when V[X] > 0x0F.
The premise on the parameters is R34's. -/
def Obligations.GlyphPointerIsFontBasePlusFiveV : Prop :=
  Encodes 0xF0FF 0xF029 (fun w => .ldFVx (fieldX w)) ∧
  ∀ (x : Nibble) (s : State), s.cfg.wellFormed = true →
    ((s.getV x).toNat ≤ 0x0F → ∃ t, exec (.ldFVx x) s = .next t ∧ WritesI t.iReg s t ∧
      t.iReg.toNat = s.cfg.fontBase + 5 * (s.getV x).toNat) ∧
    (0x0F < (s.getV x).toNat → ∃ t, exec (.ldFVx x) s = .next t ∧ Faults 0x07 (encode (.ldFVx x)) s t)

/-- FX33 stores the hundreds, tens and ones of V[X] at I, I+1, I+2 and changes no other byte; it faults with code 0x05 past 0xFFF and
0x06 below 0x200. The digit order is the spec's own decision (44_index_memory.md R185, 92_eei_decisions.md D26). Memory is in
canonical form, as the invariant says. -/
def Obligations.BcdStoresThreeDigits : Prop :=
  Encodes 0xF0FF 0xF033 (fun w => .ldBVx (fieldX w)) ∧
  ∀ (x : Nibble) (s : State), Memory.wf s.cfg s.mem = true →
    (s.iReg.toNat + 2 ≤ 0xFFF → 0x200 ≤ s.iReg.toNat → ∃ t, exec (.ldBVx x) s = .next t ∧
      (t.byteAt s.iReg.toNat).toNat = (s.getV x).toNat / 100 ∧
      (t.byteAt (s.iReg.toNat + 1)).toNat = (s.getV x).toNat / 10 % 10 ∧
      (t.byteAt (s.iReg.toNat + 2)).toNat = (s.getV x).toNat % 10 ∧
      (∀ q, q < s.iReg.toNat ∨ s.iReg.toNat + 3 ≤ q → t.byteAt q = s.byteAt q) ∧
      t = { s with mem := t.mem, pc := s.pc + 2 }) ∧
    (0xFFF < s.iReg.toNat + 2 → ∃ t, exec (.ldBVx x) s = .next t ∧ Faults 0x05 (encode (.ldBVx x)) s t) ∧
    (s.iReg.toNat < 0x200 → ∃ t, exec (.ldBVx x) s = .next t ∧ Faults 0x06 (encode (.ldBVx x)) s t)

/-- 44_index_memory.md R186: FX55 stores V0..V[X] at I..I+X and changes no other byte; I changes only with I_ADVANCE; it faults
with code 0x05 past 0xFFF and 0x06 below 0x200. Memory is in canonical form, as the invariant says. -/
def Obligations.StoreWritesRegistersUpToX : Prop :=
  Encodes 0xF0FF 0xF055 (fun w => .ldMemVx (fieldX w)) ∧
  ∀ (x : Nibble) (s : State), Memory.wf s.cfg s.mem = true →
    (s.iReg.toNat + x.toNat ≤ 0xFFF → 0x200 ≤ s.iReg.toNat → ∃ t, exec (.ldMemVx x) s = .next t ∧
      (∀ r : Nibble, r.toNat ≤ x.toNat → t.byteAt (s.iReg.toNat + r.toNat) = s.getV r) ∧
      (∀ q, q < s.iReg.toNat ∨ s.iReg.toNat + x.toNat + 1 ≤ q → t.byteAt q = s.byteAt q) ∧
      t.iReg.toNat = (if s.cfg.iAdvance then (s.iReg.toNat + x.toNat + 1) % 2 ^ 16 else s.iReg.toNat) ∧
      t = { s with mem := t.mem, iReg := t.iReg, pc := s.pc + 2 }) ∧
    (0xFFF < s.iReg.toNat + x.toNat → ∃ t, exec (.ldMemVx x) s = .next t ∧ Faults 0x05 (encode (.ldMemVx x)) s t) ∧
    (s.iReg.toNat < 0x200 → ∃ t, exec (.ldMemVx x) s = .next t ∧ Faults 0x06 (encode (.ldMemVx x)) s t)

/-- 44_index_memory.md R187: FX65 loads V0..V[X] from I..I+X, the reserved region included, and no other register; I changes
only with I_ADVANCE; it faults with code 0x05 past 0xFFF. -/
def Obligations.LoadReadsRegistersUpToX : Prop :=
  Encodes 0xF0FF 0xF065 (fun w => .ldVxMem (fieldX w)) ∧
  ∀ (x : Nibble) (s : State),
    (s.iReg.toNat + x.toNat ≤ 0xFFF → ∃ t, exec (.ldVxMem x) s = .next t ∧
      (∀ r : Nibble, t.getV r = if r.toNat ≤ x.toNat then s.byteAt (s.iReg.toNat + r.toNat) else s.getV r) ∧
      (∀ q, t.byteAt q = s.byteAt q) ∧
      t.iReg.toNat = (if s.cfg.iAdvance then (s.iReg.toNat + x.toNat + 1) % 2 ^ 16 else s.iReg.toNat) ∧
      t = { s with v := t.v, iReg := t.iReg, pc := s.pc + 2 }) ∧
    (0xFFF < s.iReg.toNat + x.toNat → ∃ t, exec (.ldVxMem x) s = .next t ∧ Faults 0x05 (encode (.ldVxMem x)) s t)

/-- 20_memory.md R63, 70_reset_and_hazards.md R291: two registers stored over the next instruction's word are what the next
CYCLE fetches. -/
def Obligations.StoredWordIsFetchedNext : Prop :=
  ∀ (x k : Nibble) (s t : State), s.Inv → s.iReg.toNat + x.toNat ≤ 0xFFF → 0x200 ≤ s.iReg.toNat → k.toNat < x.toNat →
    s.pc.toNat + 2 = s.iReg.toNat + k.toNat → exec (.ldMemVx x) s = .next t →
    t.fetch = some (joinBytes (s.getV k) (s.getV (k + 1)))

/-! ## Display -/

/-- 45_display.md R200: 00E0 clears all 2048 cells and changes nothing else. -/
def Obligations.ClearScreenClearsEveryCell : Prop :=
  Encodes 0xFFFF 0x00E0 (fun _ => .cls) ∧
  ∀ s : State, ∃ t, exec .cls s = .next t ∧ (∀ x y, x < 64 → y < 32 → t.cell x y = false) ∧
    (∀ r, t.getV r = s.getV r) ∧ (∀ q, t.byteAt q = s.byteAt q) ∧ t = { s with display := t.display, pc := s.pc + 2 }

/-- 45_display.md R201, R202, R203: DXYN, in both edge modes, toggles exactly the cells a 1 bit of the sprite falls on, drawn from
(V[X] mod 64, V[Y] mod 32), and sets VF to 1 when one of them was on, else to 0; nothing else changes; it faults with code 0x05
when N > 0 and the sprite ends past 0xFFF. -/
def Obligations.DrawTogglesTheSpriteAndSetsCollision : Prop :=
  Encodes 0xF000 0xD000 (fun w => .drw (fieldX w) (fieldY w) (fieldN w)) ∧
  ∀ (x y n : Nibble) (s : State),
    let hits := s.spriteHits ((s.getV x).toNat % 64) ((s.getV y).toNat % 32) n.toNat
    (n.toNat = 0 ∨ s.iReg.toNat + n.toNat - 1 ≤ 0xFFF → ∃ t, exec (.drw x y n) s = .next t ∧
      (∀ px py, px < 64 → py < 32 → t.cell px py = (s.cell px py != hits px py)) ∧
      ((∃ px py, px < 64 ∧ py < 32 ∧ hits px py = true ∧ s.cell px py = true) → t.getV vf = 1) ∧
      ((¬∃ px py, px < 64 ∧ py < 32 ∧ hits px py = true ∧ s.cell px py = true) → t.getV vf = 0) ∧
      (∀ r, r ≠ vf → t.getV r = s.getV r) ∧ (∀ q, t.byteAt q = s.byteAt q) ∧
      t = { s with v := t.v, display := t.display, pc := s.pc + 2 }) ∧
    (n.toNat ≠ 0 → 0xFFF < s.iReg.toNat + n.toNat - 1 →
      ∃ t, exec (.drw x y n) s = .next t ∧ Faults 0x05 (encode (.drw x y n)) s t)

/-- Drawing the same sprite again, with coordinates not in VF, restores the display, and collides exactly when the sprite drew a
cell (45_display.md R202, the example of §8). -/
def Obligations.DrawingTwiceRestoresTheDisplay : Prop :=
  ∀ (x y n : Nibble) (s : State), x ≠ vf → y ≠ vf → n.toNat = 0 ∨ s.iReg.toNat + n.toNat - 1 ≤ 0xFFF →
    (∀ px py, px < 64 → py < 32 → s.cell px py = false) →
    ∃ t u, exec (.drw x y n) s = .next t ∧ exec (.drw x y n) t = .next u ∧ u.display = s.display ∧ t.getV vf = 0 ∧
      (u.getV vf = 1 ↔ ∃ px py, px < 64 ∧ py < 32 ∧ t.cell px py = true)

/-! ## Keys and timers -/

/-- 46_timers_keys.md R212, R216, R217: V[X] <- DT, DT <- V[X], ST <- V[X]; nothing else changes. -/
def Obligations.TimerTransfers : Prop :=
  (Encodes 0xF0FF 0xF007 (fun w => .ldVxDt (fieldX w)) ∧ Encodes 0xF0FF 0xF015 (fun w => .ldDtVx (fieldX w)) ∧
   Encodes 0xF0FF 0xF018 (fun w => .ldStVx (fieldX w))) ∧
  ∀ (x : Nibble) (s : State),
    (∃ t, exec (.ldVxDt x) s = .next t ∧ WritesV x s.dt s t) ∧
    (∃ t, exec (.ldDtVx x) s = .next t ∧ (∀ q, t.byteAt q = s.byteAt q) ∧
      t = { s with dt := s.getV x, pc := s.pc + 2 }) ∧
    ∃ t, exec (.ldStVx x) s = .next t ∧ (∀ q, t.byteAt q = s.byteAt q) ∧ t.soundActive = (s.getV x != 0) ∧
      t = { s with st := s.getV x, pc := s.pc + 2 }

/-- 46_timers_keys.md R213: FX0A starts the wait with no key latched and PC unchanged; while no key is latched CYCLEs change
nothing; a key held already does not complete it; the press of a released key is latched, and the next CYCLE stores it in V[X] and
advances PC. -/
def Obligations.WaitForKeyStartsAndCompletes : Prop :=
  Encodes 0xF0FF 0xF00A (fun w => .ldVxK (fieldX w)) ∧
  ∀ (x : Nibble) (s : State), s.halted = false → ∃ t, exec (.ldVxK x) s = .next t ∧ (∀ q, t.byteAt q = s.byteAt q) ∧
    t = { s with awaiting := true, waitReg := x, latchValid := false } ∧
    (∀ rnd, perform (.cycle rnd) t = .next { t with rnd := rnd, resp := .ok }) ∧
    (∀ (k : Byte) (h : k.toNat < 16), s.keys[k.toNat] = true → perform (.setKey k true) t = .next { t with resp := .ok }) ∧
    ∀ (k rnd : Byte) (h : k.toNat < 16), s.keys[k.toNat] = false → ∃ u w, perform (.setKey k true) t = .next u ∧
      u.pc = s.pc ∧ perform (.cycle rnd) u = .next w ∧ w.getV x = k ∧ w.pc = s.pc + 2 ∧ w.awaiting = false

/-! ## Views and the end of a run -/

/-- 47_interface.md R238, R240, R241: bit y × 64 + x of the 2048-bit display port is D(x, y), the status and the timers stand on
their ports, and sound_active is ST ≠ 0. -/
def Obligations.OutputPortsShowTheState : Prop :=
  ∀ s : State,
    s.outPorts.display.length = 2048 ∧
    (∀ x y, x < 64 → y < 32 → s.outPorts.display[y * 64 + x]? = some (s.cell x y)) ∧
    (s.outPorts.dt = s.dt ∧ s.outPorts.st = s.st ∧ (s.outPorts.soundActive = true ↔ s.st ≠ 0)) ∧
    s.outPorts.halted = s.halted ∧ s.outPorts.faultCode = s.faultCode ∧ s.outPorts.faultPc = s.faultPc ∧
    s.outPorts.faultOp = s.faultOp

/-- A run that has ended stays ended: no CYCLE leaves a halted core or a self-jump (70_reset_and_hazards.md R289; the ports `rnd`
and `resp` apart). -/
def Obligations.EndedRunStaysEnded : Prop :=
  ∀ (s : State) (rnd : Byte), s.RunEnded → ∃ t, perform (.cycle rnd) s = .next t ∧ t.RunEnded ∧
    t = { s with rnd := rnd, resp := t.resp }
end

