-- ==== Sys2Proof/Laws/State.lean ====
section
/-! SUPPORT. One lemma per field and update of the state, true by unfolding, so that no proof unfolds a record update. -/

namespace Sys2Proof.Machine

variable (s : State)

/-! ## setV -/

@[simp] theorem State.setV_v (x : Nibble) (b : Byte) : (s.setV x b).v = writeV s.v x b := rfl
@[simp] theorem State.setV_pc (x : Nibble) (b : Byte) : (s.setV x b).pc = s.pc := rfl
@[simp] theorem State.setV_iReg (x : Nibble) (b : Byte) : (s.setV x b).iReg = s.iReg := rfl
@[simp] theorem State.setV_stack (x : Nibble) (b : Byte) : (s.setV x b).stack = s.stack := rfl
@[simp] theorem State.setV_sp (x : Nibble) (b : Byte) : (s.setV x b).sp = s.sp := rfl
@[simp] theorem State.setV_dt (x : Nibble) (b : Byte) : (s.setV x b).dt = s.dt := rfl
@[simp] theorem State.setV_st (x : Nibble) (b : Byte) : (s.setV x b).st = s.st := rfl
@[simp] theorem State.setV_mem (x : Nibble) (b : Byte) : (s.setV x b).mem = s.mem := rfl
@[simp] theorem State.setV_display (x : Nibble) (b : Byte) : (s.setV x b).display = s.display := rfl
@[simp] theorem State.setV_keys (x : Nibble) (b : Byte) : (s.setV x b).keys = s.keys := rfl
@[simp] theorem State.setV_awaiting (x : Nibble) (b : Byte) : (s.setV x b).awaiting = s.awaiting := rfl
@[simp] theorem State.setV_waitReg (x : Nibble) (b : Byte) : (s.setV x b).waitReg = s.waitReg := rfl
@[simp] theorem State.setV_latchValid (x : Nibble) (b : Byte) : (s.setV x b).latchValid = s.latchValid := rfl
@[simp] theorem State.setV_latchKey (x : Nibble) (b : Byte) : (s.setV x b).latchKey = s.latchKey := rfl
@[simp] theorem State.setV_halted (x : Nibble) (b : Byte) : (s.setV x b).halted = s.halted := rfl
@[simp] theorem State.setV_faultCode (x : Nibble) (b : Byte) : (s.setV x b).faultCode = s.faultCode := rfl
@[simp] theorem State.setV_faultPc (x : Nibble) (b : Byte) : (s.setV x b).faultPc = s.faultPc := rfl
@[simp] theorem State.setV_faultOp (x : Nibble) (b : Byte) : (s.setV x b).faultOp = s.faultOp := rfl
@[simp] theorem State.setV_cfg (x : Nibble) (b : Byte) : (s.setV x b).cfg = s.cfg := rfl
@[simp] theorem State.setV_rnd (x : Nibble) (b : Byte) : (s.setV x b).rnd = s.rnd := rfl
@[simp] theorem State.setV_resp (x : Nibble) (b : Byte) : (s.setV x b).resp = s.resp := rfl
@[simp] theorem State.setV_pending (x : Nibble) (b : Byte) : (s.setV x b).pending = s.pending := rfl
@[simp] theorem State.setV_draws (x : Nibble) (b : Byte) : (s.setV x b).draws = s.draws := rfl

/-! ## setI -/

@[simp] theorem State.setI_v (a : Word) : (s.setI a).v = s.v := rfl
@[simp] theorem State.setI_pc (a : Word) : (s.setI a).pc = s.pc := rfl
@[simp] theorem State.setI_iReg (a : Word) : (s.setI a).iReg = a := rfl
@[simp] theorem State.setI_stack (a : Word) : (s.setI a).stack = s.stack := rfl
@[simp] theorem State.setI_sp (a : Word) : (s.setI a).sp = s.sp := rfl
@[simp] theorem State.setI_dt (a : Word) : (s.setI a).dt = s.dt := rfl
@[simp] theorem State.setI_st (a : Word) : (s.setI a).st = s.st := rfl
@[simp] theorem State.setI_mem (a : Word) : (s.setI a).mem = s.mem := rfl
@[simp] theorem State.setI_display (a : Word) : (s.setI a).display = s.display := rfl
@[simp] theorem State.setI_keys (a : Word) : (s.setI a).keys = s.keys := rfl
@[simp] theorem State.setI_awaiting (a : Word) : (s.setI a).awaiting = s.awaiting := rfl
@[simp] theorem State.setI_waitReg (a : Word) : (s.setI a).waitReg = s.waitReg := rfl
@[simp] theorem State.setI_latchValid (a : Word) : (s.setI a).latchValid = s.latchValid := rfl
@[simp] theorem State.setI_latchKey (a : Word) : (s.setI a).latchKey = s.latchKey := rfl
@[simp] theorem State.setI_halted (a : Word) : (s.setI a).halted = s.halted := rfl
@[simp] theorem State.setI_faultCode (a : Word) : (s.setI a).faultCode = s.faultCode := rfl
@[simp] theorem State.setI_faultPc (a : Word) : (s.setI a).faultPc = s.faultPc := rfl
@[simp] theorem State.setI_faultOp (a : Word) : (s.setI a).faultOp = s.faultOp := rfl
@[simp] theorem State.setI_cfg (a : Word) : (s.setI a).cfg = s.cfg := rfl
@[simp] theorem State.setI_rnd (a : Word) : (s.setI a).rnd = s.rnd := rfl
@[simp] theorem State.setI_resp (a : Word) : (s.setI a).resp = s.resp := rfl
@[simp] theorem State.setI_pending (a : Word) : (s.setI a).pending = s.pending := rfl
@[simp] theorem State.setI_draws (a : Word) : (s.setI a).draws = s.draws := rfl

/-! ## setPc -/

@[simp] theorem State.setPc_v (a : Word) : (s.setPc a).v = s.v := rfl
@[simp] theorem State.setPc_pc (a : Word) : (s.setPc a).pc = a := rfl
@[simp] theorem State.setPc_iReg (a : Word) : (s.setPc a).iReg = s.iReg := rfl
@[simp] theorem State.setPc_stack (a : Word) : (s.setPc a).stack = s.stack := rfl
@[simp] theorem State.setPc_sp (a : Word) : (s.setPc a).sp = s.sp := rfl
@[simp] theorem State.setPc_dt (a : Word) : (s.setPc a).dt = s.dt := rfl
@[simp] theorem State.setPc_st (a : Word) : (s.setPc a).st = s.st := rfl
@[simp] theorem State.setPc_mem (a : Word) : (s.setPc a).mem = s.mem := rfl
@[simp] theorem State.setPc_display (a : Word) : (s.setPc a).display = s.display := rfl
@[simp] theorem State.setPc_keys (a : Word) : (s.setPc a).keys = s.keys := rfl
@[simp] theorem State.setPc_awaiting (a : Word) : (s.setPc a).awaiting = s.awaiting := rfl
@[simp] theorem State.setPc_waitReg (a : Word) : (s.setPc a).waitReg = s.waitReg := rfl
@[simp] theorem State.setPc_latchValid (a : Word) : (s.setPc a).latchValid = s.latchValid := rfl
@[simp] theorem State.setPc_latchKey (a : Word) : (s.setPc a).latchKey = s.latchKey := rfl
@[simp] theorem State.setPc_halted (a : Word) : (s.setPc a).halted = s.halted := rfl
@[simp] theorem State.setPc_faultCode (a : Word) : (s.setPc a).faultCode = s.faultCode := rfl
@[simp] theorem State.setPc_faultPc (a : Word) : (s.setPc a).faultPc = s.faultPc := rfl
@[simp] theorem State.setPc_faultOp (a : Word) : (s.setPc a).faultOp = s.faultOp := rfl
@[simp] theorem State.setPc_cfg (a : Word) : (s.setPc a).cfg = s.cfg := rfl
@[simp] theorem State.setPc_rnd (a : Word) : (s.setPc a).rnd = s.rnd := rfl
@[simp] theorem State.setPc_resp (a : Word) : (s.setPc a).resp = s.resp := rfl
@[simp] theorem State.setPc_pending (a : Word) : (s.setPc a).pending = s.pending := rfl
@[simp] theorem State.setPc_draws (a : Word) : (s.setPc a).draws = s.draws := rfl

/-! ## advance -/

@[simp] theorem State.advance_v : (s.advance).v = s.v := rfl
@[simp] theorem State.advance_pc : (s.advance).pc = s.pc + 2 := rfl
@[simp] theorem State.advance_iReg : (s.advance).iReg = s.iReg := rfl
@[simp] theorem State.advance_stack : (s.advance).stack = s.stack := rfl
@[simp] theorem State.advance_sp : (s.advance).sp = s.sp := rfl
@[simp] theorem State.advance_dt : (s.advance).dt = s.dt := rfl
@[simp] theorem State.advance_st : (s.advance).st = s.st := rfl
@[simp] theorem State.advance_mem : (s.advance).mem = s.mem := rfl
@[simp] theorem State.advance_display : (s.advance).display = s.display := rfl
@[simp] theorem State.advance_keys : (s.advance).keys = s.keys := rfl
@[simp] theorem State.advance_awaiting : (s.advance).awaiting = s.awaiting := rfl
@[simp] theorem State.advance_waitReg : (s.advance).waitReg = s.waitReg := rfl
@[simp] theorem State.advance_latchValid : (s.advance).latchValid = s.latchValid := rfl
@[simp] theorem State.advance_latchKey : (s.advance).latchKey = s.latchKey := rfl
@[simp] theorem State.advance_halted : (s.advance).halted = s.halted := rfl
@[simp] theorem State.advance_faultCode : (s.advance).faultCode = s.faultCode := rfl
@[simp] theorem State.advance_faultPc : (s.advance).faultPc = s.faultPc := rfl
@[simp] theorem State.advance_faultOp : (s.advance).faultOp = s.faultOp := rfl
@[simp] theorem State.advance_cfg : (s.advance).cfg = s.cfg := rfl
@[simp] theorem State.advance_rnd : (s.advance).rnd = s.rnd := rfl
@[simp] theorem State.advance_resp : (s.advance).resp = s.resp := rfl
@[simp] theorem State.advance_pending : (s.advance).pending = s.pending := rfl
@[simp] theorem State.advance_draws : (s.advance).draws = s.draws := rfl

/-! ## skipIf -/

@[simp] theorem State.skipIf_v (c : Bool) : (s.skipIf c).v = s.v := rfl
@[simp] theorem State.skipIf_pc (c : Bool) : (s.skipIf c).pc = s.pc + if c then 4 else 2 := rfl
@[simp] theorem State.skipIf_iReg (c : Bool) : (s.skipIf c).iReg = s.iReg := rfl
@[simp] theorem State.skipIf_stack (c : Bool) : (s.skipIf c).stack = s.stack := rfl
@[simp] theorem State.skipIf_sp (c : Bool) : (s.skipIf c).sp = s.sp := rfl
@[simp] theorem State.skipIf_dt (c : Bool) : (s.skipIf c).dt = s.dt := rfl
@[simp] theorem State.skipIf_st (c : Bool) : (s.skipIf c).st = s.st := rfl
@[simp] theorem State.skipIf_mem (c : Bool) : (s.skipIf c).mem = s.mem := rfl
@[simp] theorem State.skipIf_display (c : Bool) : (s.skipIf c).display = s.display := rfl
@[simp] theorem State.skipIf_keys (c : Bool) : (s.skipIf c).keys = s.keys := rfl
@[simp] theorem State.skipIf_awaiting (c : Bool) : (s.skipIf c).awaiting = s.awaiting := rfl
@[simp] theorem State.skipIf_waitReg (c : Bool) : (s.skipIf c).waitReg = s.waitReg := rfl
@[simp] theorem State.skipIf_latchValid (c : Bool) : (s.skipIf c).latchValid = s.latchValid := rfl
@[simp] theorem State.skipIf_latchKey (c : Bool) : (s.skipIf c).latchKey = s.latchKey := rfl
@[simp] theorem State.skipIf_halted (c : Bool) : (s.skipIf c).halted = s.halted := rfl
@[simp] theorem State.skipIf_faultCode (c : Bool) : (s.skipIf c).faultCode = s.faultCode := rfl
@[simp] theorem State.skipIf_faultPc (c : Bool) : (s.skipIf c).faultPc = s.faultPc := rfl
@[simp] theorem State.skipIf_faultOp (c : Bool) : (s.skipIf c).faultOp = s.faultOp := rfl
@[simp] theorem State.skipIf_cfg (c : Bool) : (s.skipIf c).cfg = s.cfg := rfl
@[simp] theorem State.skipIf_rnd (c : Bool) : (s.skipIf c).rnd = s.rnd := rfl
@[simp] theorem State.skipIf_resp (c : Bool) : (s.skipIf c).resp = s.resp := rfl
@[simp] theorem State.skipIf_pending (c : Bool) : (s.skipIf c).pending = s.pending := rfl
@[simp] theorem State.skipIf_draws (c : Bool) : (s.skipIf c).draws = s.draws := rfl

/-! ## store -/

@[simp] theorem State.store_v (a : Nat) (bs : List Byte) : (s.store a bs).v = s.v := rfl
@[simp] theorem State.store_pc (a : Nat) (bs : List Byte) : (s.store a bs).pc = s.pc := rfl
@[simp] theorem State.store_iReg (a : Nat) (bs : List Byte) : (s.store a bs).iReg = s.iReg := rfl
@[simp] theorem State.store_stack (a : Nat) (bs : List Byte) : (s.store a bs).stack = s.stack := rfl
@[simp] theorem State.store_sp (a : Nat) (bs : List Byte) : (s.store a bs).sp = s.sp := rfl
@[simp] theorem State.store_dt (a : Nat) (bs : List Byte) : (s.store a bs).dt = s.dt := rfl
@[simp] theorem State.store_st (a : Nat) (bs : List Byte) : (s.store a bs).st = s.st := rfl
@[simp] theorem State.store_mem (a : Nat) (bs : List Byte) : (s.store a bs).mem = Memory.writeBytes s.cfg a bs s.mem := rfl
@[simp] theorem State.store_display (a : Nat) (bs : List Byte) : (s.store a bs).display = s.display := rfl
@[simp] theorem State.store_keys (a : Nat) (bs : List Byte) : (s.store a bs).keys = s.keys := rfl
@[simp] theorem State.store_awaiting (a : Nat) (bs : List Byte) : (s.store a bs).awaiting = s.awaiting := rfl
@[simp] theorem State.store_waitReg (a : Nat) (bs : List Byte) : (s.store a bs).waitReg = s.waitReg := rfl
@[simp] theorem State.store_latchValid (a : Nat) (bs : List Byte) : (s.store a bs).latchValid = s.latchValid := rfl
@[simp] theorem State.store_latchKey (a : Nat) (bs : List Byte) : (s.store a bs).latchKey = s.latchKey := rfl
@[simp] theorem State.store_halted (a : Nat) (bs : List Byte) : (s.store a bs).halted = s.halted := rfl
@[simp] theorem State.store_faultCode (a : Nat) (bs : List Byte) : (s.store a bs).faultCode = s.faultCode := rfl
@[simp] theorem State.store_faultPc (a : Nat) (bs : List Byte) : (s.store a bs).faultPc = s.faultPc := rfl
@[simp] theorem State.store_faultOp (a : Nat) (bs : List Byte) : (s.store a bs).faultOp = s.faultOp := rfl
@[simp] theorem State.store_cfg (a : Nat) (bs : List Byte) : (s.store a bs).cfg = s.cfg := rfl
@[simp] theorem State.store_rnd (a : Nat) (bs : List Byte) : (s.store a bs).rnd = s.rnd := rfl
@[simp] theorem State.store_resp (a : Nat) (bs : List Byte) : (s.store a bs).resp = s.resp := rfl
@[simp] theorem State.store_pending (a : Nat) (bs : List Byte) : (s.store a bs).pending = s.pending := rfl
@[simp] theorem State.store_draws (a : Nat) (bs : List Byte) : (s.store a bs).draws = s.draws := rfl

/-! ## takeFault -/

@[simp] theorem State.takeFault_v (c : Cause) (op : Word) : (s.takeFault c op).v = s.v := rfl
@[simp] theorem State.takeFault_pc (c : Cause) (op : Word) : (s.takeFault c op).pc = s.pc := rfl
@[simp] theorem State.takeFault_iReg (c : Cause) (op : Word) : (s.takeFault c op).iReg = s.iReg := rfl
@[simp] theorem State.takeFault_stack (c : Cause) (op : Word) : (s.takeFault c op).stack = s.stack := rfl
@[simp] theorem State.takeFault_sp (c : Cause) (op : Word) : (s.takeFault c op).sp = s.sp := rfl
@[simp] theorem State.takeFault_dt (c : Cause) (op : Word) : (s.takeFault c op).dt = s.dt := rfl
@[simp] theorem State.takeFault_st (c : Cause) (op : Word) : (s.takeFault c op).st = s.st := rfl
@[simp] theorem State.takeFault_mem (c : Cause) (op : Word) : (s.takeFault c op).mem = s.mem := rfl
@[simp] theorem State.takeFault_display (c : Cause) (op : Word) : (s.takeFault c op).display = s.display := rfl
@[simp] theorem State.takeFault_keys (c : Cause) (op : Word) : (s.takeFault c op).keys = s.keys := rfl
@[simp] theorem State.takeFault_awaiting (c : Cause) (op : Word) : (s.takeFault c op).awaiting = s.awaiting := rfl
@[simp] theorem State.takeFault_waitReg (c : Cause) (op : Word) : (s.takeFault c op).waitReg = s.waitReg := rfl
@[simp] theorem State.takeFault_latchValid (c : Cause) (op : Word) : (s.takeFault c op).latchValid = s.latchValid := rfl
@[simp] theorem State.takeFault_latchKey (c : Cause) (op : Word) : (s.takeFault c op).latchKey = s.latchKey := rfl
@[simp] theorem State.takeFault_halted (c : Cause) (op : Word) : (s.takeFault c op).halted = true := rfl
@[simp] theorem State.takeFault_faultCode (c : Cause) (op : Word) : (s.takeFault c op).faultCode = c.code := rfl
@[simp] theorem State.takeFault_faultPc (c : Cause) (op : Word) : (s.takeFault c op).faultPc = s.pc := rfl
@[simp] theorem State.takeFault_faultOp (c : Cause) (op : Word) : (s.takeFault c op).faultOp = op := rfl
@[simp] theorem State.takeFault_cfg (c : Cause) (op : Word) : (s.takeFault c op).cfg = s.cfg := rfl
@[simp] theorem State.takeFault_rnd (c : Cause) (op : Word) : (s.takeFault c op).rnd = s.rnd := rfl
@[simp] theorem State.takeFault_resp (c : Cause) (op : Word) : (s.takeFault c op).resp = s.resp := rfl
@[simp] theorem State.takeFault_pending (c : Cause) (op : Word) : (s.takeFault c op).pending = s.pending := rfl
@[simp] theorem State.takeFault_draws (c : Cause) (op : Word) : (s.takeFault c op).draws = s.draws := rfl

/-! ## load -/

@[simp] theorem State.load_v (x : Nibble) (b : Byte) : (s.load x b).v = writeV s.v x b := rfl
@[simp] theorem State.load_pc (x : Nibble) (b : Byte) : (s.load x b).pc = s.pc + 2 := rfl
@[simp] theorem State.load_iReg (x : Nibble) (b : Byte) : (s.load x b).iReg = s.iReg := rfl
@[simp] theorem State.load_stack (x : Nibble) (b : Byte) : (s.load x b).stack = s.stack := rfl
@[simp] theorem State.load_sp (x : Nibble) (b : Byte) : (s.load x b).sp = s.sp := rfl
@[simp] theorem State.load_dt (x : Nibble) (b : Byte) : (s.load x b).dt = s.dt := rfl
@[simp] theorem State.load_st (x : Nibble) (b : Byte) : (s.load x b).st = s.st := rfl
@[simp] theorem State.load_mem (x : Nibble) (b : Byte) : (s.load x b).mem = s.mem := rfl
@[simp] theorem State.load_display (x : Nibble) (b : Byte) : (s.load x b).display = s.display := rfl
@[simp] theorem State.load_keys (x : Nibble) (b : Byte) : (s.load x b).keys = s.keys := rfl
@[simp] theorem State.load_awaiting (x : Nibble) (b : Byte) : (s.load x b).awaiting = s.awaiting := rfl
@[simp] theorem State.load_waitReg (x : Nibble) (b : Byte) : (s.load x b).waitReg = s.waitReg := rfl
@[simp] theorem State.load_latchValid (x : Nibble) (b : Byte) : (s.load x b).latchValid = s.latchValid := rfl
@[simp] theorem State.load_latchKey (x : Nibble) (b : Byte) : (s.load x b).latchKey = s.latchKey := rfl
@[simp] theorem State.load_halted (x : Nibble) (b : Byte) : (s.load x b).halted = s.halted := rfl
@[simp] theorem State.load_faultCode (x : Nibble) (b : Byte) : (s.load x b).faultCode = s.faultCode := rfl
@[simp] theorem State.load_faultPc (x : Nibble) (b : Byte) : (s.load x b).faultPc = s.faultPc := rfl
@[simp] theorem State.load_faultOp (x : Nibble) (b : Byte) : (s.load x b).faultOp = s.faultOp := rfl
@[simp] theorem State.load_cfg (x : Nibble) (b : Byte) : (s.load x b).cfg = s.cfg := rfl
@[simp] theorem State.load_rnd (x : Nibble) (b : Byte) : (s.load x b).rnd = s.rnd := rfl
@[simp] theorem State.load_resp (x : Nibble) (b : Byte) : (s.load x b).resp = s.resp := rfl
@[simp] theorem State.load_pending (x : Nibble) (b : Byte) : (s.load x b).pending = s.pending := rfl
@[simp] theorem State.load_draws (x : Nibble) (b : Byte) : (s.load x b).draws = s.draws := rfl

/-! ## flagOp -/

@[simp] theorem State.flagOp_v (x : Nibble) (r : Vector Byte 16 → Byte) (f : Vector Byte 16 → Bool) : (s.flagOp x r f).v = Machine.flagOp s.cfg.vfOrder x r f s.v := rfl
@[simp] theorem State.flagOp_pc (x : Nibble) (r : Vector Byte 16 → Byte) (f : Vector Byte 16 → Bool) : (s.flagOp x r f).pc = s.pc + 2 := rfl
@[simp] theorem State.flagOp_iReg (x : Nibble) (r : Vector Byte 16 → Byte) (f : Vector Byte 16 → Bool) : (s.flagOp x r f).iReg = s.iReg := rfl
@[simp] theorem State.flagOp_stack (x : Nibble) (r : Vector Byte 16 → Byte) (f : Vector Byte 16 → Bool) : (s.flagOp x r f).stack = s.stack := rfl
@[simp] theorem State.flagOp_sp (x : Nibble) (r : Vector Byte 16 → Byte) (f : Vector Byte 16 → Bool) : (s.flagOp x r f).sp = s.sp := rfl
@[simp] theorem State.flagOp_dt (x : Nibble) (r : Vector Byte 16 → Byte) (f : Vector Byte 16 → Bool) : (s.flagOp x r f).dt = s.dt := rfl
@[simp] theorem State.flagOp_st (x : Nibble) (r : Vector Byte 16 → Byte) (f : Vector Byte 16 → Bool) : (s.flagOp x r f).st = s.st := rfl
@[simp] theorem State.flagOp_mem (x : Nibble) (r : Vector Byte 16 → Byte) (f : Vector Byte 16 → Bool) : (s.flagOp x r f).mem = s.mem := rfl
@[simp] theorem State.flagOp_display (x : Nibble) (r : Vector Byte 16 → Byte) (f : Vector Byte 16 → Bool) : (s.flagOp x r f).display = s.display := rfl
@[simp] theorem State.flagOp_keys (x : Nibble) (r : Vector Byte 16 → Byte) (f : Vector Byte 16 → Bool) : (s.flagOp x r f).keys = s.keys := rfl
@[simp] theorem State.flagOp_awaiting (x : Nibble) (r : Vector Byte 16 → Byte) (f : Vector Byte 16 → Bool) : (s.flagOp x r f).awaiting = s.awaiting := rfl
@[simp] theorem State.flagOp_waitReg (x : Nibble) (r : Vector Byte 16 → Byte) (f : Vector Byte 16 → Bool) : (s.flagOp x r f).waitReg = s.waitReg := rfl
@[simp] theorem State.flagOp_latchValid (x : Nibble) (r : Vector Byte 16 → Byte) (f : Vector Byte 16 → Bool) : (s.flagOp x r f).latchValid = s.latchValid := rfl
@[simp] theorem State.flagOp_latchKey (x : Nibble) (r : Vector Byte 16 → Byte) (f : Vector Byte 16 → Bool) : (s.flagOp x r f).latchKey = s.latchKey := rfl
@[simp] theorem State.flagOp_halted (x : Nibble) (r : Vector Byte 16 → Byte) (f : Vector Byte 16 → Bool) : (s.flagOp x r f).halted = s.halted := rfl
@[simp] theorem State.flagOp_faultCode (x : Nibble) (r : Vector Byte 16 → Byte) (f : Vector Byte 16 → Bool) : (s.flagOp x r f).faultCode = s.faultCode := rfl
@[simp] theorem State.flagOp_faultPc (x : Nibble) (r : Vector Byte 16 → Byte) (f : Vector Byte 16 → Bool) : (s.flagOp x r f).faultPc = s.faultPc := rfl
@[simp] theorem State.flagOp_faultOp (x : Nibble) (r : Vector Byte 16 → Byte) (f : Vector Byte 16 → Bool) : (s.flagOp x r f).faultOp = s.faultOp := rfl
@[simp] theorem State.flagOp_cfg (x : Nibble) (r : Vector Byte 16 → Byte) (f : Vector Byte 16 → Bool) : (s.flagOp x r f).cfg = s.cfg := rfl
@[simp] theorem State.flagOp_rnd (x : Nibble) (r : Vector Byte 16 → Byte) (f : Vector Byte 16 → Bool) : (s.flagOp x r f).rnd = s.rnd := rfl
@[simp] theorem State.flagOp_resp (x : Nibble) (r : Vector Byte 16 → Byte) (f : Vector Byte 16 → Bool) : (s.flagOp x r f).resp = s.resp := rfl
@[simp] theorem State.flagOp_pending (x : Nibble) (r : Vector Byte 16 → Byte) (f : Vector Byte 16 → Bool) : (s.flagOp x r f).pending = s.pending := rfl
@[simp] theorem State.flagOp_draws (x : Nibble) (r : Vector Byte 16 → Byte) (f : Vector Byte 16 → Bool) : (s.flagOp x r f).draws = s.draws := rfl

/-! ## setCanvas -/

@[simp] theorem State.setCanvas_v (cv : Canvas) : (s.setCanvas cv).v = writeV s.v vf (flagByte cv.2) := rfl
@[simp] theorem State.setCanvas_pc (cv : Canvas) : (s.setCanvas cv).pc = s.pc := rfl
@[simp] theorem State.setCanvas_iReg (cv : Canvas) : (s.setCanvas cv).iReg = s.iReg := rfl
@[simp] theorem State.setCanvas_stack (cv : Canvas) : (s.setCanvas cv).stack = s.stack := rfl
@[simp] theorem State.setCanvas_sp (cv : Canvas) : (s.setCanvas cv).sp = s.sp := rfl
@[simp] theorem State.setCanvas_dt (cv : Canvas) : (s.setCanvas cv).dt = s.dt := rfl
@[simp] theorem State.setCanvas_st (cv : Canvas) : (s.setCanvas cv).st = s.st := rfl
@[simp] theorem State.setCanvas_mem (cv : Canvas) : (s.setCanvas cv).mem = s.mem := rfl
@[simp] theorem State.setCanvas_display (cv : Canvas) : (s.setCanvas cv).display = cv.1 := rfl
@[simp] theorem State.setCanvas_keys (cv : Canvas) : (s.setCanvas cv).keys = s.keys := rfl
@[simp] theorem State.setCanvas_awaiting (cv : Canvas) : (s.setCanvas cv).awaiting = s.awaiting := rfl
@[simp] theorem State.setCanvas_waitReg (cv : Canvas) : (s.setCanvas cv).waitReg = s.waitReg := rfl
@[simp] theorem State.setCanvas_latchValid (cv : Canvas) : (s.setCanvas cv).latchValid = s.latchValid := rfl
@[simp] theorem State.setCanvas_latchKey (cv : Canvas) : (s.setCanvas cv).latchKey = s.latchKey := rfl
@[simp] theorem State.setCanvas_halted (cv : Canvas) : (s.setCanvas cv).halted = s.halted := rfl
@[simp] theorem State.setCanvas_faultCode (cv : Canvas) : (s.setCanvas cv).faultCode = s.faultCode := rfl
@[simp] theorem State.setCanvas_faultPc (cv : Canvas) : (s.setCanvas cv).faultPc = s.faultPc := rfl
@[simp] theorem State.setCanvas_faultOp (cv : Canvas) : (s.setCanvas cv).faultOp = s.faultOp := rfl
@[simp] theorem State.setCanvas_cfg (cv : Canvas) : (s.setCanvas cv).cfg = s.cfg := rfl
@[simp] theorem State.setCanvas_rnd (cv : Canvas) : (s.setCanvas cv).rnd = s.rnd := rfl
@[simp] theorem State.setCanvas_resp (cv : Canvas) : (s.setCanvas cv).resp = s.resp := rfl
@[simp] theorem State.setCanvas_pending (cv : Canvas) : (s.setCanvas cv).pending = s.pending := rfl
@[simp] theorem State.setCanvas_draws (cv : Canvas) : (s.setCanvas cv).draws = s.draws := rfl

/-! ## respond -/

@[simp] theorem State.respond_v (r : Response) : (s.respond r).v = s.v := rfl
@[simp] theorem State.respond_pc (r : Response) : (s.respond r).pc = s.pc := rfl
@[simp] theorem State.respond_iReg (r : Response) : (s.respond r).iReg = s.iReg := rfl
@[simp] theorem State.respond_stack (r : Response) : (s.respond r).stack = s.stack := rfl
@[simp] theorem State.respond_sp (r : Response) : (s.respond r).sp = s.sp := rfl
@[simp] theorem State.respond_dt (r : Response) : (s.respond r).dt = s.dt := rfl
@[simp] theorem State.respond_st (r : Response) : (s.respond r).st = s.st := rfl
@[simp] theorem State.respond_mem (r : Response) : (s.respond r).mem = s.mem := rfl
@[simp] theorem State.respond_display (r : Response) : (s.respond r).display = s.display := rfl
@[simp] theorem State.respond_keys (r : Response) : (s.respond r).keys = s.keys := rfl
@[simp] theorem State.respond_awaiting (r : Response) : (s.respond r).awaiting = s.awaiting := rfl
@[simp] theorem State.respond_waitReg (r : Response) : (s.respond r).waitReg = s.waitReg := rfl
@[simp] theorem State.respond_latchValid (r : Response) : (s.respond r).latchValid = s.latchValid := rfl
@[simp] theorem State.respond_latchKey (r : Response) : (s.respond r).latchKey = s.latchKey := rfl
@[simp] theorem State.respond_halted (r : Response) : (s.respond r).halted = s.halted := rfl
@[simp] theorem State.respond_faultCode (r : Response) : (s.respond r).faultCode = s.faultCode := rfl
@[simp] theorem State.respond_faultPc (r : Response) : (s.respond r).faultPc = s.faultPc := rfl
@[simp] theorem State.respond_faultOp (r : Response) : (s.respond r).faultOp = s.faultOp := rfl
@[simp] theorem State.respond_cfg (r : Response) : (s.respond r).cfg = s.cfg := rfl
@[simp] theorem State.respond_rnd (r : Response) : (s.respond r).rnd = s.rnd := rfl
@[simp] theorem State.respond_resp (r : Response) : (s.respond r).resp = r := rfl
@[simp] theorem State.respond_pending (r : Response) : (s.respond r).pending = s.pending := rfl
@[simp] theorem State.respond_draws (r : Response) : (s.respond r).draws = s.draws := rfl

/-! ## latch -/

@[simp] theorem State.latch_v (k : Byte) : (s.latch k).v = s.v := rfl
@[simp] theorem State.latch_pc (k : Byte) : (s.latch k).pc = s.pc := rfl
@[simp] theorem State.latch_iReg (k : Byte) : (s.latch k).iReg = s.iReg := rfl
@[simp] theorem State.latch_stack (k : Byte) : (s.latch k).stack = s.stack := rfl
@[simp] theorem State.latch_sp (k : Byte) : (s.latch k).sp = s.sp := rfl
@[simp] theorem State.latch_dt (k : Byte) : (s.latch k).dt = s.dt := rfl
@[simp] theorem State.latch_st (k : Byte) : (s.latch k).st = s.st := rfl
@[simp] theorem State.latch_mem (k : Byte) : (s.latch k).mem = s.mem := rfl
@[simp] theorem State.latch_display (k : Byte) : (s.latch k).display = s.display := rfl
@[simp] theorem State.latch_keys (k : Byte) : (s.latch k).keys = s.keys := rfl
@[simp] theorem State.latch_awaiting (k : Byte) : (s.latch k).awaiting = s.awaiting := rfl
@[simp] theorem State.latch_waitReg (k : Byte) : (s.latch k).waitReg = s.waitReg := rfl
@[simp] theorem State.latch_latchValid (k : Byte) : (s.latch k).latchValid = true := rfl
@[simp] theorem State.latch_latchKey (k : Byte) : (s.latch k).latchKey = k.setWidth 4 := rfl
@[simp] theorem State.latch_halted (k : Byte) : (s.latch k).halted = s.halted := rfl
@[simp] theorem State.latch_faultCode (k : Byte) : (s.latch k).faultCode = s.faultCode := rfl
@[simp] theorem State.latch_faultPc (k : Byte) : (s.latch k).faultPc = s.faultPc := rfl
@[simp] theorem State.latch_faultOp (k : Byte) : (s.latch k).faultOp = s.faultOp := rfl
@[simp] theorem State.latch_cfg (k : Byte) : (s.latch k).cfg = s.cfg := rfl
@[simp] theorem State.latch_rnd (k : Byte) : (s.latch k).rnd = s.rnd := rfl
@[simp] theorem State.latch_resp (k : Byte) : (s.latch k).resp = s.resp := rfl
@[simp] theorem State.latch_pending (k : Byte) : (s.latch k).pending = s.pending := rfl
@[simp] theorem State.latch_draws (k : Byte) : (s.latch k).draws = s.draws := rfl

/-! ## setKeyLevel -/

@[simp] theorem State.setKeyLevel_v (k : Byte) (p : Bool) : (s.setKeyLevel k p).v = s.v := rfl
@[simp] theorem State.setKeyLevel_pc (k : Byte) (p : Bool) : (s.setKeyLevel k p).pc = s.pc := rfl
@[simp] theorem State.setKeyLevel_iReg (k : Byte) (p : Bool) : (s.setKeyLevel k p).iReg = s.iReg := rfl
@[simp] theorem State.setKeyLevel_stack (k : Byte) (p : Bool) : (s.setKeyLevel k p).stack = s.stack := rfl
@[simp] theorem State.setKeyLevel_sp (k : Byte) (p : Bool) : (s.setKeyLevel k p).sp = s.sp := rfl
@[simp] theorem State.setKeyLevel_dt (k : Byte) (p : Bool) : (s.setKeyLevel k p).dt = s.dt := rfl
@[simp] theorem State.setKeyLevel_st (k : Byte) (p : Bool) : (s.setKeyLevel k p).st = s.st := rfl
@[simp] theorem State.setKeyLevel_mem (k : Byte) (p : Bool) : (s.setKeyLevel k p).mem = s.mem := rfl
@[simp] theorem State.setKeyLevel_display (k : Byte) (p : Bool) : (s.setKeyLevel k p).display = s.display := rfl
@[simp] theorem State.setKeyLevel_keys (k : Byte) (p : Bool) : (s.setKeyLevel k p).keys = s.keys.setIfInBounds k.toNat p := rfl
@[simp] theorem State.setKeyLevel_awaiting (k : Byte) (p : Bool) : (s.setKeyLevel k p).awaiting = s.awaiting := rfl
@[simp] theorem State.setKeyLevel_waitReg (k : Byte) (p : Bool) : (s.setKeyLevel k p).waitReg = s.waitReg := rfl
@[simp] theorem State.setKeyLevel_latchValid (k : Byte) (p : Bool) : (s.setKeyLevel k p).latchValid = s.latchValid := rfl
@[simp] theorem State.setKeyLevel_latchKey (k : Byte) (p : Bool) : (s.setKeyLevel k p).latchKey = s.latchKey := rfl
@[simp] theorem State.setKeyLevel_halted (k : Byte) (p : Bool) : (s.setKeyLevel k p).halted = s.halted := rfl
@[simp] theorem State.setKeyLevel_faultCode (k : Byte) (p : Bool) : (s.setKeyLevel k p).faultCode = s.faultCode := rfl
@[simp] theorem State.setKeyLevel_faultPc (k : Byte) (p : Bool) : (s.setKeyLevel k p).faultPc = s.faultPc := rfl
@[simp] theorem State.setKeyLevel_faultOp (k : Byte) (p : Bool) : (s.setKeyLevel k p).faultOp = s.faultOp := rfl
@[simp] theorem State.setKeyLevel_cfg (k : Byte) (p : Bool) : (s.setKeyLevel k p).cfg = s.cfg := rfl
@[simp] theorem State.setKeyLevel_rnd (k : Byte) (p : Bool) : (s.setKeyLevel k p).rnd = s.rnd := rfl
@[simp] theorem State.setKeyLevel_resp (k : Byte) (p : Bool) : (s.setKeyLevel k p).resp = s.resp := rfl
@[simp] theorem State.setKeyLevel_pending (k : Byte) (p : Bool) : (s.setKeyLevel k p).pending = s.pending := rfl
@[simp] theorem State.setKeyLevel_draws (k : Byte) (p : Bool) : (s.setKeyLevel k p).draws = s.draws := rfl

/-! ## coreReset -/

@[simp] theorem State.coreReset_v : (s.coreReset).v = State.reset.v := rfl
@[simp] theorem State.coreReset_pc : (s.coreReset).pc = State.reset.pc := rfl
@[simp] theorem State.coreReset_iReg : (s.coreReset).iReg = State.reset.iReg := rfl
@[simp] theorem State.coreReset_stack : (s.coreReset).stack = State.reset.stack := rfl
@[simp] theorem State.coreReset_sp : (s.coreReset).sp = State.reset.sp := rfl
@[simp] theorem State.coreReset_dt : (s.coreReset).dt = State.reset.dt := rfl
@[simp] theorem State.coreReset_st : (s.coreReset).st = State.reset.st := rfl
@[simp] theorem State.coreReset_mem : (s.coreReset).mem = State.reset.mem := rfl
@[simp] theorem State.coreReset_display : (s.coreReset).display = State.reset.display := rfl
@[simp] theorem State.coreReset_keys : (s.coreReset).keys = s.keys := rfl
@[simp] theorem State.coreReset_awaiting : (s.coreReset).awaiting = State.reset.awaiting := rfl
@[simp] theorem State.coreReset_waitReg : (s.coreReset).waitReg = State.reset.waitReg := rfl
@[simp] theorem State.coreReset_latchValid : (s.coreReset).latchValid = State.reset.latchValid := rfl
@[simp] theorem State.coreReset_latchKey : (s.coreReset).latchKey = State.reset.latchKey := rfl
@[simp] theorem State.coreReset_halted : (s.coreReset).halted = State.reset.halted := rfl
@[simp] theorem State.coreReset_faultCode : (s.coreReset).faultCode = State.reset.faultCode := rfl
@[simp] theorem State.coreReset_faultPc : (s.coreReset).faultPc = State.reset.faultPc := rfl
@[simp] theorem State.coreReset_faultOp : (s.coreReset).faultOp = State.reset.faultOp := rfl
@[simp] theorem State.coreReset_cfg : (s.coreReset).cfg = s.cfg := rfl
@[simp] theorem State.coreReset_rnd : (s.coreReset).rnd = s.rnd := rfl
@[simp] theorem State.coreReset_resp : (s.coreReset).resp = s.resp := rfl
@[simp] theorem State.coreReset_pending : (s.coreReset).pending = s.pending := rfl
@[simp] theorem State.coreReset_draws : (s.coreReset).draws = s.draws := rfl

/-! ## advanceI -/

@[simp] theorem State.advanceI_v (x : Nibble) : (s.advanceI x).v = s.v := by unfold State.advanceI; split <;> rfl
@[simp] theorem State.advanceI_pc (x : Nibble) : (s.advanceI x).pc = s.pc := by unfold State.advanceI; split <;> rfl
theorem State.advanceI_iReg (x : Nibble) : (s.advanceI x).iReg = if s.cfg.iAdvance then s.iReg + BitVec.ofNat 16 (x.toNat + 1) else s.iReg := by
  unfold State.advanceI; split <;> rfl
@[simp] theorem State.advanceI_stack (x : Nibble) : (s.advanceI x).stack = s.stack := by unfold State.advanceI; split <;> rfl
@[simp] theorem State.advanceI_sp (x : Nibble) : (s.advanceI x).sp = s.sp := by unfold State.advanceI; split <;> rfl
@[simp] theorem State.advanceI_dt (x : Nibble) : (s.advanceI x).dt = s.dt := by unfold State.advanceI; split <;> rfl
@[simp] theorem State.advanceI_st (x : Nibble) : (s.advanceI x).st = s.st := by unfold State.advanceI; split <;> rfl
@[simp] theorem State.advanceI_mem (x : Nibble) : (s.advanceI x).mem = s.mem := by unfold State.advanceI; split <;> rfl
@[simp] theorem State.advanceI_display (x : Nibble) : (s.advanceI x).display = s.display := by unfold State.advanceI; split <;> rfl
@[simp] theorem State.advanceI_keys (x : Nibble) : (s.advanceI x).keys = s.keys := by unfold State.advanceI; split <;> rfl
@[simp] theorem State.advanceI_awaiting (x : Nibble) : (s.advanceI x).awaiting = s.awaiting := by unfold State.advanceI; split <;> rfl
@[simp] theorem State.advanceI_waitReg (x : Nibble) : (s.advanceI x).waitReg = s.waitReg := by unfold State.advanceI; split <;> rfl
@[simp] theorem State.advanceI_latchValid (x : Nibble) : (s.advanceI x).latchValid = s.latchValid := by unfold State.advanceI; split <;> rfl
@[simp] theorem State.advanceI_latchKey (x : Nibble) : (s.advanceI x).latchKey = s.latchKey := by unfold State.advanceI; split <;> rfl
@[simp] theorem State.advanceI_halted (x : Nibble) : (s.advanceI x).halted = s.halted := by unfold State.advanceI; split <;> rfl
@[simp] theorem State.advanceI_faultCode (x : Nibble) : (s.advanceI x).faultCode = s.faultCode := by unfold State.advanceI; split <;> rfl
@[simp] theorem State.advanceI_faultPc (x : Nibble) : (s.advanceI x).faultPc = s.faultPc := by unfold State.advanceI; split <;> rfl
@[simp] theorem State.advanceI_faultOp (x : Nibble) : (s.advanceI x).faultOp = s.faultOp := by unfold State.advanceI; split <;> rfl
@[simp] theorem State.advanceI_cfg (x : Nibble) : (s.advanceI x).cfg = s.cfg := by unfold State.advanceI; split <;> rfl
@[simp] theorem State.advanceI_rnd (x : Nibble) : (s.advanceI x).rnd = s.rnd := by unfold State.advanceI; split <;> rfl
@[simp] theorem State.advanceI_resp (x : Nibble) : (s.advanceI x).resp = s.resp := by unfold State.advanceI; split <;> rfl
@[simp] theorem State.advanceI_pending (x : Nibble) : (s.advanceI x).pending = s.pending := by unfold State.advanceI; split <;> rfl
@[simp] theorem State.advanceI_draws (x : Nibble) : (s.advanceI x).draws = s.draws := by unfold State.advanceI; split <;> rfl

end Sys2Proof.Machine
end

