-- ==== Sys2Proof/Laws/Memory.lean ====
section
/-! SUPPORT. Memory: what a read gives after a write, and that every operation keeps the canonical form. -/

namespace Sys2Proof.Machine

variable {cfg : Config}

/-! ## Reading after writing -/

theorem Memory.read_of_lt (m : Memory) : ∀ low a, Memory.wfAbove cfg low m = true → a < low →
    Memory.read cfg m a = unlistedByte cfg a := by
  induction m with
  | nil => intros; rfl
  | cons e m ih =>
    intro low a h ha
    obtain ⟨k, b⟩ := e
    simp only [Memory.wfAbove, Bool.and_eq_true, decide_eq_true_eq] at h
    have hk : k ≠ a := by omega
    simpa [Memory.read, hk] using ih (k + 1) a h.2 (by omega)

theorem Memory.read_enter (m : Memory) (low a : Nat) (b : Byte) (h : Memory.wfAbove cfg low m = true) (ha : a < low)
    (q : Nat) : Memory.read cfg (Memory.enter cfg a b m) q = if q = a then b else Memory.read cfg m q := by
  unfold Memory.enter
  split
  · rename_i hb
    split
    · subst_vars; exact Memory.read_of_lt m low _ h ha
    · rfl
  · simp [Memory.read, eq_comm]

theorem Memory.wfAbove_mono (m : Memory) {low high : Nat} (hl : low ≤ high) (h : Memory.wfAbove cfg high m = true) :
    Memory.wfAbove cfg low m = true := by
  cases m with
  | nil => rfl
  | cons e m =>
    simp only [Memory.wfAbove, Bool.and_eq_true, decide_eq_true_eq] at h ⊢
    exact ⟨⟨⟨by omega, h.1.1.2⟩, h.1.2⟩, h.2⟩

/-- A read of a written memory: the byte written at the address written, every other address as before. -/
theorem Memory.read_write_above (m : Memory) : ∀ low a (b : Byte) q, Memory.wfAbove cfg low m = true →
    Memory.read cfg (Memory.write cfg a b m) q = if q = a then b else Memory.read cfg m q := by
  induction m with
  | nil =>
    intro low a b q _
    exact Memory.read_enter [] (a + 1) a b rfl (by omega) q
  | cons e m ih =>
    intro low a b q h
    obtain ⟨k, c⟩ := e
    have h' := h
    simp only [Memory.wfAbove, Bool.and_eq_true, decide_eq_true_eq] at h
    unfold Memory.write
    split
    · rename_i hak
      refine Memory.read_enter _ k a b ?_ hak q
      simp only [Memory.wfAbove, Bool.and_eq_true, decide_eq_true_eq]
      exact ⟨⟨⟨by omega, h.1.1.2⟩, h.1.2⟩, h.2⟩
    · split
      · rename_i hak
        subst hak
        rw [Memory.read_enter _ (a + 1) a b h.2 (by omega)]
        by_cases hq : q = a
        · simp [hq]
        · simp [hq, Memory.read, Ne.symm hq]
      · simp only [Memory.read, ih (k + 1) a b q h.2]
        by_cases hq : k = q
        · have : q ≠ a := by omega
          simp [hq, this]
        · simp [hq]

theorem Memory.wfAbove_enter (m : Memory) {low a : Nat} (b : Byte) (h : Memory.wfAbove cfg (a + 1) m = true)
    (hl : low ≤ a) (ha : a < 4096) : Memory.wfAbove cfg low (Memory.enter cfg a b m) = true := by
  unfold Memory.enter
  split
  · exact Memory.wfAbove_mono m (by omega) h
  · simp [Memory.wfAbove, *]

/-- A write inside the address space keeps the canonical form. -/
theorem Memory.wfAbove_write (m : Memory) : ∀ low a (b : Byte), Memory.wfAbove cfg low m = true → low ≤ a →
    a < 4096 → Memory.wfAbove cfg low (Memory.write cfg a b m) = true := by
  induction m with
  | nil => intro low a b _ hl ha; exact Memory.wfAbove_enter [] b rfl hl ha
  | cons e m ih =>
    intro low a b h hl ha
    obtain ⟨k, c⟩ := e
    simp only [Memory.wfAbove, Bool.and_eq_true, decide_eq_true_eq] at h
    unfold Memory.write
    split
    · rename_i hak
      refine Memory.wfAbove_enter _ b ?_ hl ha
      simp only [Memory.wfAbove, Bool.and_eq_true, decide_eq_true_eq]
      exact ⟨⟨⟨by omega, h.1.1.2⟩, h.1.2⟩, h.2⟩
    · split
      · rename_i hak
        subst hak
        exact Memory.wfAbove_enter m b h.2 hl ha
      · simp only [Memory.wfAbove, Bool.and_eq_true, decide_eq_true_eq]
        exact ⟨⟨⟨h.1.1.1, h.1.1.2⟩, h.1.2⟩, ih (k + 1) a b h.2 (by omega) ha⟩

theorem Memory.read_write {m : Memory} (h : Memory.wf cfg m = true) (a : Nat) (b : Byte) (q : Nat) :
    Memory.read cfg (Memory.write cfg a b m) q = if q = a then b else Memory.read cfg m q :=
  Memory.read_write_above m 0 a b q h

theorem Memory.wf_write {m : Memory} (h : Memory.wf cfg m = true) {a : Nat} (b : Byte) (ha : a < 4096) :
    Memory.wf cfg (Memory.write cfg a b m) = true :=
  Memory.wfAbove_write m 0 a b h (by omega) ha

/-! ## Several bytes -/

theorem Memory.wf_writeBytes (bs : List Byte) : ∀ {m : Memory} {a : Nat}, Memory.wf cfg m = true →
    a + bs.length ≤ 4096 → Memory.wf cfg (Memory.writeBytes cfg a bs m) = true := by
  induction bs with
  | nil => intro m a h _; exact h
  | cons b bs ih =>
    intro m a h ha
    simp only [List.length_cons] at ha
    exact ih (Memory.wf_write h b (by omega)) (by omega)

/-- A read after a store of consecutive bytes: the stored byte inside the range, the old byte outside. -/
theorem Memory.read_writeBytes (bs : List Byte) : ∀ {m : Memory} {a : Nat}, Memory.wf cfg m = true →
    a + bs.length ≤ 4096 → ∀ q, Memory.read cfg (Memory.writeBytes cfg a bs m) q =
      if a ≤ q ∧ q < a + bs.length then bs[q - a]?.getD 0 else Memory.read cfg m q := by
  induction bs with
  | nil => intro m a _ _ q; have : ¬(a ≤ q ∧ q < a) := by omega
           simp [Memory.writeBytes, this]
  | cons b bs ih =>
    intro m a h ha q
    simp only [List.length_cons] at ha ⊢
    rw [Memory.writeBytes, ih (Memory.wf_write h b (by omega)) (by omega) q, Memory.read_write h]
    by_cases hq : q = a
    · subst hq
      have h1 : ¬(q + 1 ≤ q ∧ q < q + 1 + bs.length) := by omega
      have h2 : q ≤ q ∧ q < q + (bs.length + 1) := by omega
      simp
    · by_cases hin : a + 1 ≤ q ∧ q < a + 1 + bs.length
      · have h2 : a ≤ q ∧ q < a + (bs.length + 1) := by omega
        obtain ⟨j, rfl⟩ : ∃ j, q = a + 1 + j := ⟨q - (a + 1), by omega⟩
        have e1 : a + 1 + j - (a + 1) = j := by omega
        have e2 : a + 1 + j - a = j + 1 := by omega
        rw [if_pos hin, if_pos h2, e1, e2, List.getElem?_cons_succ]
      · have h2 : ¬(a ≤ q ∧ q < a + (bs.length + 1)) := by omega
        rw [if_neg hin, if_neg hq, if_neg h2]

/-! ## The state's memory -/

@[simp] theorem Memory.wf_nil : Memory.wf cfg [] = true := rfl

theorem Memory.read_nil (a : Nat) : Memory.read cfg [] a = unlistedByte cfg a := rfl

theorem State.byteAt_congr {s t : State} (hc : t.cfg = s.cfg) (hm : t.mem = s.mem) (a : Nat) : t.byteAt a = s.byteAt a := by
  simp [State.byteAt, hc, hm]

theorem State.byteAt_store {s : State} {a : Nat} {bs : List Byte} (h : Memory.wf s.cfg s.mem = true)
    (ha : a + bs.length ≤ 4096) (q : Nat) :
    (s.store a bs).byteAt q = if a ≤ q ∧ q < a + bs.length then bs[q - a]?.getD 0 else s.byteAt q :=
  Memory.read_writeBytes bs h ha q

theorem State.wf_store {s : State} {a : Nat} {bs : List Byte} (h : Memory.wf s.cfg s.mem = true)
    (ha : a + bs.length ≤ 4096) : Memory.wf (s.store a bs).cfg (s.store a bs).mem = true :=
  Memory.wf_writeBytes bs h ha

/-- Outside the font an unlisted byte reads 0x00 (10_state.md R44). -/
theorem unlistedByte_outside_font {a : Nat} (h : a < cfg.fontBase ∨ cfg.fontBase + 80 ≤ a) : unlistedByte cfg a = 0 := by
  unfold unlistedByte
  split
  · have : ¬(a - cfg.fontBase) / 5 < 16 := by omega
    rw [Vector.getElem?_eq_none (by omega)]; rfl
  · rfl

/-- Row `j` of glyph `g` stands at FONT_BASE + 5g + j (10_state.md R33, R34). -/
theorem unlistedByte_font (g j : Nat) (hg : g < 16) (hj : j < 5) :
    unlistedByte cfg (cfg.fontBase + 5 * g + j) = cfg.fontGlyphs[g][j] := by
  have h1 : cfg.fontBase + 5 * g + j - cfg.fontBase = 5 * g + j := by omega
  have h2 : (5 * g + j) / 5 = g := by omega
  have h3 : (5 * g + j) % 5 = j := by omega
  have h0 : cfg.fontBase ≤ cfg.fontBase + 5 * g + j := by omega
  simp [unlistedByte, h0, h1, h2, h3, hg, hj]

end Sys2Proof.Machine
end

