-- ==== Sys2Proof/Laws/Ops.lean ====
section
/-! SUPPORT. What the shared operations can do: the checks, the checked meanings, the stack. -/

namespace Sys2Proof.Machine

/-! ## Range checks (44_index_memory.md R184) -/

theorem checkRead_eq_none {a n : Nat} : checkRead a n = none ↔ a + n - 1 ≤ 0xFFF := by
  unfold checkRead; split <;> simp <;> omega

theorem checkRead_eq_some {a n : Nat} {c : Cause} (h : checkRead a n = some c) :
    0xFFF < a + n - 1 ∧ c = .memoryOutOfBounds (max a 0x1000) := by
  unfold checkRead at h; split at h
  · exact ⟨by omega, by simpa using h.symm⟩
  · cases h

theorem checkWrite_eq_none {a n : Nat} : checkWrite a n = none ↔ a + n - 1 ≤ 0xFFF ∧ 0x200 ≤ a := by
  unfold checkWrite; split
  · simp; omega
  · split <;> simp <;> omega

theorem checkWrite_eq_some {a n : Nat} {c : Cause} (h : checkWrite a n = some c) :
    (0xFFF < a + n - 1 ∧ c = .memoryOutOfBounds (max a 0x1000)) ∨
    (a + n - 1 ≤ 0xFFF ∧ a < 0x200 ∧ c = .reservedWrite a) := by
  unfold checkWrite at h; split at h
  · exact .inl ⟨by omega, by simpa using h.symm⟩
  · split at h
    · exact .inr ⟨by omega, by omega, by simpa using h.symm⟩
    · cases h

theorem checkNibble_eq_none {b : Byte} : checkNibble b = none ↔ b.toNat ≤ 15 := by
  unfold checkNibble; split <;> simp_all [BitVec.lt_def]

theorem checkNibble_eq_some {b : Byte} {c : Cause} (h : checkNibble b = some c) :
    15 < b.toNat ∧ c = .operandOutOfRange := by
  unfold checkNibble at h; split at h
  · exact ⟨by simp_all [BitVec.lt_def], by simpa using h.symm⟩
  · cases h

/-! ## Checked meanings -/

@[simp] theorem checked_none (op : Word) (s t : State) : checked none op s t = .next t := rfl
@[simp] theorem checked_some (c : Cause) (op : Word) (s t : State) : checked (some c) op s t = .next (s.takeFault c op) := rfl

/-- A checked meaning answers its fault or its effect, and nothing else. -/
theorem checked_cases {chk : Option Cause} {op : Word} {s t u : State} (h : checked chk op s t = .next u) :
    (∃ c, chk = some c ∧ u = s.takeFault c op) ∨ (chk = none ∧ u = t) := by
  cases chk with
  | none => exact .inr ⟨rfl, by simpa using h.symm⟩
  | some c => exact .inl ⟨c, rfl, by simpa using h.symm⟩

/-! ## The stack (10_state.md R27) -/

theorem State.push_eq_none {s : State} {a : Word} : s.push a = none ↔ s.sp.val = 16 := by
  unfold State.push; split <;> simp <;> omega

theorem State.push_eq_some {s t : State} {a : Word} (h : s.push a = some t) :
    ∃ hs : s.sp.val < 16, t = { s with stack := s.stack.set s.sp.val a, sp := ⟨s.sp.val + 1, by omega⟩ } := by
  unfold State.push at h; split at h
  · rename_i hs; exact ⟨hs, by simpa using h.symm⟩
  · cases h

theorem State.pop_eq_none {s : State} : s.pop = none ↔ s.sp.val = 0 := by
  unfold State.pop; split <;> simp <;> omega

theorem State.pop_eq_some {s t : State} {a : Word} (h : s.pop = some (a, t)) :
    ∃ hs : 0 < s.sp.val, a = s.stack[s.sp.val - 1] ∧ t = { s with sp := ⟨s.sp.val - 1, by omega⟩ } := by
  unfold State.pop at h; split at h
  · rename_i hs; exact ⟨hs, by simp_all⟩
  · cases h

end Sys2Proof.Machine
end

