-- ==== Sys2Proof/Laws/Operands.lean ====
section
/-! SUPPORT. The register file, the loads and stores of register ranges, the decimal digits. -/

namespace Sys2Proof.Machine

@[simp] theorem readV_writeV_same (v : Vector Byte 16) (x : Nibble) (b : Byte) : readV (writeV v x b) x = b := by
  simp [readV, writeV]

theorem readV_writeV_of_ne (v : Vector Byte 16) {x r : Nibble} (b : Byte) (h : r ≠ x) :
    readV (writeV v x b) r = readV v r := by
  have h' : x.toNat ≠ r.toNat := fun e => h (BitVec.eq_of_toNat_eq e.symm)
  simp [readV, writeV, h']

theorem readV_writeV (v : Vector Byte 16) (x r : Nibble) (b : Byte) :
    readV (writeV v x b) r = if r = x then b else readV v r := by
  by_cases h : r = x
  · subst h; simp
  · simp [h, readV_writeV_of_ne]

theorem State.getV_congr {s t : State} (h : t.v = s.v) (x : Nibble) : t.getV x = s.getV x := by simp [State.getV, h]

theorem State.getV_setV (s : State) (x r : Nibble) (b : Byte) : (s.setV x b).getV r = if r = x then b else s.getV r :=
  readV_writeV s.v x r b

@[simp] theorem State.getV_advance (s : State) (x : Nibble) : s.advance.getV x = s.getV x := rfl

theorem State.getV_load (s : State) (x r : Nibble) (b : Byte) : (s.load x b).getV r = if r = x then b else s.getV r :=
  readV_writeV s.v x r b

/-- `loadRegs` gives V[j] the byte at a + j for j < n and keeps the others (44_index_memory.md R187). -/
theorem State.getElem_loadRegs (s : State) (a : Nat) : ∀ n j (h : j < 16),
    (s.loadRegs a n)[j] = if j < n then s.byteAt (a + j) else s.v[j]
  | 0, j, h => by simp [State.loadRegs]
  | n + 1, j, h => by
    rw [State.loadRegs, Vector.getElem_setIfInBounds]
    by_cases hj : n = j
    · subst hj; simp
    · have : (j < n + 1) ↔ (j < n) := by omega
      simp [hj, State.getElem_loadRegs s a n j h, this]

theorem State.length_regsUpTo (s : State) (x : Nibble) : (s.regsUpTo x).length = x.toNat + 1 := by
  have := x.isLt
  simp [State.regsUpTo]; omega

/-- Byte `j` of the bytes FX55 stores is V[j] (44_index_memory.md R186). -/
theorem State.getElem_regsUpTo (s : State) (x : Nibble) (j : Nat) (hj : j ≤ x.toNat) :
    (s.regsUpTo x)[j]?.getD 0 = s.getV (BitVec.ofNat 4 j) := by
  have hx := x.isLt
  have h16 : j < 16 := by omega
  have hm : j % 16 = j := by omega
  simp [State.regsUpTo, State.getV, readV, Nat.lt_succ_of_le hj, h16, hm]

@[simp] theorem length_bcdDigits (b : Byte) : (bcdDigits b).length = 3 := rfl

theorem addrOperand_toNat (nnn : Addr) : (addrOperand nnn).toNat = nnn.toNat := by
  have := nnn.isLt
  simp [addrOperand]; omega

theorem wordOperand_toNat (b : Byte) : (wordOperand b).toNat = b.toNat := by
  have := b.isLt
  simp [wordOperand]; omega

end Sys2Proof.Machine
end

