-- ==== Sys2Proof/Laws/Flags.lean ====
section
/-! SUPPORT. The flag write-back FlagOp, register by register, in each of its three orders (43_alu.md R156). -/

namespace Sys2Proof.Machine

variable (x : Nibble) (res : Vector Byte 16 → Byte) (flg : Vector Byte 16 → Bool) (v : Vector Byte 16)

theorem readV_flagOp_flagLast (r : Nibble) : readV (flagOp .flagLast x res flg v) r =
    if r = vf then flagByte (flg v) else if r = x then res v else readV v r := by
  simp only [flagOp, readV_writeV]

theorem readV_flagOp_resultLast (r : Nibble) : readV (flagOp .resultLast x res flg v) r =
    if r = x then res v else if r = vf then flagByte (flg v) else readV v r := by
  simp only [flagOp, readV_writeV]

theorem readV_flagOp_flagFirstSeq (r : Nibble) : readV (flagOp .flagFirstSeq x res flg v) r =
    if r = x then res (writeV v vf (flagByte (flg v))) else if r = vf then flagByte (flg v) else readV v r := by
  simp only [flagOp, readV_writeV]

/-- FlagOp changes no register but V[X] and VF, in every order. -/
theorem readV_flagOp_other (order : VfOrder) {r : Nibble} (hx : r ≠ x) (hf : r ≠ vf) :
    readV (flagOp order x res flg v) r = readV v r := by
  cases order <;> simp [flagOp, readV_writeV, hx, hf]

/-- Away from VF the flag is what VF holds, in every order. -/
theorem readV_flagOp_vf (order : VfOrder) (hx : x ≠ vf) : readV (flagOp order x res flg v) vf = flagByte (flg v) := by
  cases order <;> simp [flagOp, readV_writeV, Ne.symm hx]

theorem flagByte_eq (f : Bool) : flagByte f = if f then 1 else 0 := rfl

end Sys2Proof.Machine
end

