-- ==== Sys2Proof/Laws/Display.lean ====
section
/-! SUPPORT. Drawing: which cells a sprite toggles and when it collides (45_display.md R201-R203). -/

namespace Sys2Proof.Machine

/-! ## One cell -/

theorem Display.cell_toggle (d : Display) {px py x y : Nat} (hx : x < 64) (hy : y < 32) :
    Display.cell (Display.toggle d px py) x y = (Display.cell d x y ^^ decide (px = x ∧ py = y)) := by
  unfold Display.cell Display.toggle
  by_cases h : py = y
  · subst h
    simp [hy, hx]
    by_cases h' : px = x
    · subst h'; simp
    · have : ¬(px ≤ x ∧ x - px = 0) := by omega
      by_cases h1 : x < px
      · simp [h1, h']
      · have h2 : x - px ≠ 0 := by omega
        simp [h1, h', h2]
  · simp [hy, h]

/-- Sprite pixel (c, r) is drawn on the cell (px, py) exactly when it is the pixel that falls on it. -/
theorem pixelCell_eq_some_iff (edge : DrawEdge) {x0 y0 c r px py : Nat} (hx0 : x0 < 64) (hy0 : y0 < 32) (hc : c < 8)
    (hr : r < 16) (hx : px < 64) (hy : py < 32) :
    pixelCell edge x0 y0 c r = some (px, py) ↔ spritePixel edge x0 y0 px py = some (c, r) := by
  cases edge with
  | wrap => simp only [pixelCell, spritePixel, Option.some.injEq, Prod.mk.injEq]; omega
  | clip =>
    simp only [pixelCell, spritePixel]
    split <;> split <;> simp <;> omega

theorem pixelCell_lt {edge : DrawEdge} {x0 y0 c r px py : Nat} (h : pixelCell edge x0 y0 c r = some (px, py)) :
    px < 64 ∧ py < 32 := by
  cases edge with
  | wrap => simp only [pixelCell, Option.some.injEq, Prod.mk.injEq] at h; omega
  | clip =>
    simp only [pixelCell] at h
    split at h
    · cases h
    · simp only [Option.some.injEq, Prod.mk.injEq] at h; omega

/-! ## The columns of one row -/

/-- The first `k` columns of sprite row `r`, byte `b`, hit the cell. -/
def colsHit (edge : DrawEdge) (x0 y0 r : Nat) (b : Byte) (k px py : Nat) : Bool :=
  match spritePixel edge x0 y0 px py with
  | some (c, q) => decide (q = r) && decide (c < k) && b.getLsbD (7 - c)
  | none => false

/-- Pixel (c, r) of row byte `b` hits the cell. -/
def pixelHit (edge : DrawEdge) (x0 y0 r c : Nat) (b : Byte) (px py : Nat) : Bool :=
  decide (spritePixel edge x0 y0 px py = some (c, r)) && b.getLsbD (7 - c)

theorem colsHit_succ (edge : DrawEdge) (x0 y0 r : Nat) (b : Byte) (k px py : Nat) :
    colsHit edge x0 y0 r b (k + 1) px py = (colsHit edge x0 y0 r b k px py ^^ pixelHit edge x0 y0 r k b px py) := by
  unfold colsHit pixelHit
  cases spritePixel edge x0 y0 px py with
  | none => simp
  | some p =>
    obtain ⟨c, q⟩ := p
    by_cases h : c = k
    · subst h; by_cases hq : q = r <;> simp [hq]
    · have : (c < k + 1) ↔ (c < k) := by omega
      simp [h, this]

theorem cell_drawPixel (edge : DrawEdge) {x0 y0 r c : Nat} (b : Byte) (cv : Canvas) {px py : Nat} (hx0 : x0 < 64)
    (hy0 : y0 < 32) (hc : c < 8) (hr : r < 16) (hx : px < 64) (hy : py < 32) :
    Display.cell (drawPixel (pixelCell edge x0 y0 c r) (b.getLsbD (7 - c)) cv).1 px py =
      (Display.cell cv.1 px py ^^ pixelHit edge x0 y0 r c b px py) := by
  have key := pixelCell_eq_some_iff edge hx0 hy0 hc hr hx hy
  unfold pixelHit
  cases hp : pixelCell edge x0 y0 c r with
  | none => rw [hp] at key; simp [drawPixel, ← key]
  | some p =>
    obtain ⟨qx, qy⟩ := p
    rw [hp] at key
    cases b.getLsbD (7 - c) with
    | false => simp [drawPixel]
    | true => simp [drawPixel, Display.cell_toggle _ hx hy, ← key]

theorem cell_drawCols (edge : DrawEdge) {x0 y0 r : Nat} (b : Byte) (cv : Canvas) {px py : Nat} (hx0 : x0 < 64)
    (hy0 : y0 < 32) (hr : r < 16) (hx : px < 64) (hy : py < 32) : ∀ k, k ≤ 8 →
    Display.cell (drawCols edge x0 y0 r b k cv).1 px py = (Display.cell cv.1 px py ^^ colsHit edge x0 y0 r b k px py)
  | 0, _ => by
    have : colsHit edge x0 y0 r b 0 px py = false := by unfold colsHit; split <;> simp
    simp [drawCols, this]
  | k + 1, hk => by
    rw [drawCols, cell_drawPixel edge b _ hx0 hy0 (by omega) hr hx hy,
      cell_drawCols edge b cv hx0 hy0 hr hx hy k (by omega), colsHit_succ, Bool.xor_assoc]

/-- The pixel drawn at step `c` records a collision when its cell is on. -/
theorem collision_drawPixel (edge : DrawEdge) {x0 y0 r c : Nat} (b : Byte) (cv : Canvas) (hx0 : x0 < 64)
    (hy0 : y0 < 32) (hc : c < 8) (hr : r < 16) :
    (drawPixel (pixelCell edge x0 y0 c r) (b.getLsbD (7 - c)) cv).2 = true ↔ cv.2 = true ∨
      ∃ px py, px < 64 ∧ py < 32 ∧ pixelHit edge x0 y0 r c b px py = true ∧ Display.cell cv.1 px py = true := by
  have key : ∀ {px py}, px < 64 → py < 32 → (pixelHit edge x0 y0 r c b px py = true ↔
      pixelCell edge x0 y0 c r = some (px, py) ∧ b.getLsbD (7 - c) = true) := by
    intro px py hx hy
    simp [pixelHit, pixelCell_eq_some_iff edge hx0 hy0 hc hr hx hy]
  constructor
  · intro h
    cases hp : pixelCell edge x0 y0 c r with
    | none => rw [hp] at h; exact .inl h
    | some p =>
      obtain ⟨qx, qy⟩ := p
      cases hb : b.getLsbD (7 - c) with
      | false => rw [hp, hb] at h; exact .inl h
      | true =>
        rw [hp, hb] at h
        obtain ⟨hx, hy⟩ := pixelCell_lt hp
        simp only [drawPixel, Bool.or_eq_true] at h
        exact h.imp id fun h => ⟨qx, qy, hx, hy, (key hx hy).2 ⟨hp, hb⟩, h⟩
  · rintro (h | ⟨px, py, hx, hy, hh, hd⟩)
    · unfold drawPixel; split <;> simp [h]
    · obtain ⟨hp, hb⟩ := (key hx hy).1 hh
      simp [hp, hb, drawPixel, hd]

theorem collision_drawCols (edge : DrawEdge) {x0 y0 r : Nat} (b : Byte) (cv : Canvas) (hx0 : x0 < 64)
    (hy0 : y0 < 32) (hr : r < 16) : ∀ k, k ≤ 8 →
    ((drawCols edge x0 y0 r b k cv).2 = true ↔ cv.2 = true ∨
      ∃ px py, px < 64 ∧ py < 32 ∧ colsHit edge x0 y0 r b k px py = true ∧ Display.cell cv.1 px py = true)
  | 0, _ => by
    have : ∀ px py, colsHit edge x0 y0 r b 0 px py = false := by intros; unfold colsHit; split <;> simp
    simp [drawCols, this]
  | k + 1, hk => by
    rw [drawCols, collision_drawPixel edge b _ hx0 hy0 (by omega) hr,
      collision_drawCols edge b cv hx0 hy0 hr k (by omega), or_assoc]
    refine or_congr_right ?_
    have excl : ∀ px py, pixelHit edge x0 y0 r k b px py = true → colsHit edge x0 y0 r b k px py = false := by
      intro px py h
      simp only [pixelHit, Bool.and_eq_true, decide_eq_true_eq] at h
      simp [colsHit, h.1]
    constructor
    · rintro (⟨px, py, hx, hy, hh, hd⟩ | ⟨px, py, hx, hy, hh, hd⟩)
      · refine ⟨px, py, hx, hy, ?_, hd⟩
        rw [colsHit_succ]
        cases hp : pixelHit edge x0 y0 r k b px py with
        | false => simp [hh]
        | true => rw [excl px py hp] at hh; cases hh
      · rw [cell_drawCols edge b cv hx0 hy0 hr hx hy k (by omega), excl px py hh, Bool.xor_false] at hd
        exact ⟨px, py, hx, hy, by rw [colsHit_succ, excl px py hh, hh]; rfl, hd⟩
    · rintro ⟨px, py, hx, hy, hh, hd⟩
      rw [colsHit_succ] at hh
      cases hp : pixelHit edge x0 y0 r k b px py with
      | false => rw [hp, Bool.xor_false] at hh; exact .inl ⟨px, py, hx, hy, hh, hd⟩
      | true =>
        refine .inr ⟨px, py, hx, hy, hp, ?_⟩
        rw [cell_drawCols edge b cv hx0 hy0 hr hx hy k (by omega), excl px py hp, Bool.xor_false, hd]

/-! ## The rows -/

/-- The first `n` rows of the sprite at address `a` hit the cell. -/
def rowsHit (s : State) (x0 y0 a n px py : Nat) : Bool :=
  match spritePixel s.cfg.drawEdge x0 y0 px py with
  | some (c, r) => decide (c < 8) && decide (r < n) && (s.byteAt (a + r)).getLsbD (7 - c)
  | none => false

theorem rowsHit_base (s : State) (x0 y0 n px py : Nat) : rowsHit s x0 y0 s.base n px py = s.spriteHits x0 y0 n px py := rfl

theorem rowsHit_succ (s : State) (x0 y0 a n px py : Nat) : rowsHit s x0 y0 a (n + 1) px py =
    (rowsHit s x0 y0 a n px py ^^ colsHit s.cfg.drawEdge x0 y0 n (s.byteAt (a + n)) 8 px py) := by
  unfold rowsHit colsHit
  cases spritePixel s.cfg.drawEdge x0 y0 px py with
  | none => rfl
  | some p =>
    obtain ⟨c, r⟩ := p
    by_cases h : r = n
    · subst h; simp
    · have : (r < n + 1) ↔ (r < n) := by omega
      simp [h, this]

/-- A cell after `n` rows: toggled exactly when they hit it. -/
theorem cell_drawRows (s : State) {x0 y0 a : Nat} (cv : Canvas) {px py : Nat} (hx0 : x0 < 64) (hy0 : y0 < 32)
    (hx : px < 64) (hy : py < 32) : ∀ n, n ≤ 16 →
    Display.cell (drawRows s x0 y0 a n cv).1 px py = (Display.cell cv.1 px py ^^ rowsHit s x0 y0 a n px py)
  | 0, _ => by
    have : rowsHit s x0 y0 a 0 px py = false := by unfold rowsHit; split <;> simp
    simp [drawRows, this]
  | n + 1, hn => by
    rw [drawRows, cell_drawCols _ _ _ hx0 hy0 (by omega) hx hy 8 (by omega),
      cell_drawRows s cv hx0 hy0 hx hy n (by omega), rowsHit_succ, Bool.xor_assoc]

/-- `n` rows collide exactly when they hit a cell that was on before them. -/
theorem collision_drawRows (s : State) {x0 y0 a : Nat} (cv : Canvas) (hx0 : x0 < 64) (hy0 : y0 < 32) : ∀ n, n ≤ 16 →
    ((drawRows s x0 y0 a n cv).2 = true ↔ cv.2 = true ∨
      ∃ px py, px < 64 ∧ py < 32 ∧ rowsHit s x0 y0 a n px py = true ∧ Display.cell cv.1 px py = true)
  | 0, _ => by
    have : ∀ px py, rowsHit s x0 y0 a 0 px py = false := by intros; unfold rowsHit; split <;> simp
    simp [drawRows, this]
  | n + 1, hn => by
    rw [drawRows, collision_drawCols _ _ _ hx0 hy0 (by omega) 8 (by omega), collision_drawRows s cv hx0 hy0 n (by omega),
      or_assoc]
    refine or_congr_right ?_
    have excl : ∀ px py, colsHit s.cfg.drawEdge x0 y0 n (s.byteAt (a + n)) 8 px py = true →
        rowsHit s x0 y0 a n px py = false := by
      intro px py h
      unfold colsHit at h; unfold rowsHit
      cases hp : spritePixel s.cfg.drawEdge x0 y0 px py with
      | none => rfl
      | some p =>
        obtain ⟨c, r⟩ := p
        simp only [hp, Bool.and_eq_true, decide_eq_true_eq] at h
        simp [h.1.1]
    constructor
    · rintro (⟨px, py, hx, hy, hh, hd⟩ | ⟨px, py, hx, hy, hh, hd⟩)
      · refine ⟨px, py, hx, hy, ?_, hd⟩
        rw [rowsHit_succ]
        cases hp : colsHit s.cfg.drawEdge x0 y0 n (s.byteAt (a + n)) 8 px py with
        | false => simp [hh]
        | true => rw [excl px py hp] at hh; cases hh
      · rw [cell_drawRows s cv hx0 hy0 hx hy n (by omega), excl px py hh, Bool.xor_false] at hd
        exact ⟨px, py, hx, hy, by rw [rowsHit_succ, excl px py hh, hh]; rfl, hd⟩
    · rintro ⟨px, py, hx, hy, hh, hd⟩
      rw [rowsHit_succ] at hh
      cases hp : colsHit s.cfg.drawEdge x0 y0 n (s.byteAt (a + n)) 8 px py with
      | false => rw [hp, Bool.xor_false] at hh; exact .inl ⟨px, py, hx, hy, hh, hd⟩
      | true =>
        refine .inr ⟨px, py, hx, hy, hp, ?_⟩
        rw [cell_drawRows s cv hx0 hy0 hx hy n (by omega), excl px py hp, Bool.xor_false, hd]

/-- Two displays are equal when their 2048 cells are. -/
theorem Display.ext_cell {d e : Display} (h : ∀ px py, px < 64 → py < 32 → Display.cell d px py = Display.cell e px py) :
    d = e := by
  apply Vector.ext
  intro j hj
  apply BitVec.eq_of_getLsbD_eq
  intro i hi
  simpa [Display.cell, hj] using h i j hi hj

end Sys2Proof.Machine
end

