-- ==== Sys2Proof/Laws/Words.lean ====
section
/-! SUPPORT. The fields of an encoded word and the word of decoded fields (30_encoding.md R81), and the byte order. -/

namespace Sys2Proof

/-! ## The fields of each layout -/

section
variable (f x y n : Nibble) (nn : Byte) (nnn : Addr)

@[simp] theorem family_wordNNN : family (wordNNN f nnn) = f := by
  apply BitVec.eq_of_toNat_eq; simp [family, wordNNN, Nat.shiftRight_eq_div_pow]; omega
@[simp] theorem fieldNNN_wordNNN : fieldNNN (wordNNN f nnn) = nnn := by
  apply BitVec.eq_of_toNat_eq; simp [fieldNNN, wordNNN]; omega

@[simp] theorem family_wordXNN : family (wordXNN f x nn) = f := by
  apply BitVec.eq_of_toNat_eq; simp [family, wordXNN, Nat.shiftRight_eq_div_pow]; omega
@[simp] theorem fieldX_wordXNN : fieldX (wordXNN f x nn) = x := by
  apply BitVec.eq_of_toNat_eq; simp [fieldX, wordXNN, Nat.shiftRight_eq_div_pow]; omega
@[simp] theorem fieldNN_wordXNN : fieldNN (wordXNN f x nn) = nn := by
  apply BitVec.eq_of_toNat_eq; simp [fieldNN, wordXNN]; omega

@[simp] theorem family_wordXYN : family (wordXYN f x y n) = f := by
  apply BitVec.eq_of_toNat_eq; simp [family, wordXYN, Nat.shiftRight_eq_div_pow]; omega
@[simp] theorem fieldX_wordXYN : fieldX (wordXYN f x y n) = x := by
  apply BitVec.eq_of_toNat_eq; simp [fieldX, wordXYN, Nat.shiftRight_eq_div_pow]; omega
@[simp] theorem fieldY_wordXYN : fieldY (wordXYN f x y n) = y := by
  apply BitVec.eq_of_toNat_eq; simp [fieldY, wordXYN, Nat.shiftRight_eq_div_pow]; omega
@[simp] theorem fieldN_wordXYN : fieldN (wordXYN f x y n) = n := by
  apply BitVec.eq_of_toNat_eq; simp [fieldN, wordXYN]; omega

end

/-! ## A word is made of its fields -/

theorem wordNNN_fields (op : Word) : wordNNN (family op) (fieldNNN op) = op := by
  apply BitVec.eq_of_toNat_eq; simp [family, fieldNNN, wordNNN, Nat.shiftRight_eq_div_pow]; omega

theorem wordXNN_fields (op : Word) : wordXNN (family op) (fieldX op) (fieldNN op) = op := by
  apply BitVec.eq_of_toNat_eq; simp [family, fieldX, fieldNN, wordXNN, Nat.shiftRight_eq_div_pow]; omega

theorem wordXYN_fields (op : Word) : wordXYN (family op) (fieldX op) (fieldY op) (fieldN op) = op := by
  apply BitVec.eq_of_toNat_eq; simp [family, fieldX, fieldY, fieldN, wordXYN, Nat.shiftRight_eq_div_pow]; omega

/-! ## Bytes -/

@[simp] theorem joinBytes_highByte_lowByte (op : Word) : joinBytes (highByte op) (lowByte op) = op := by
  apply BitVec.eq_of_toNat_eq; simp [joinBytes, highByte, lowByte, Nat.shiftRight_eq_div_pow]; omega
@[simp] theorem highByte_joinBytes (hi lo : Byte) : highByte (joinBytes hi lo) = hi := by
  apply BitVec.eq_of_toNat_eq; simp [joinBytes, highByte, Nat.shiftRight_eq_div_pow]; omega
@[simp] theorem lowByte_joinBytes (hi lo : Byte) : lowByte (joinBytes hi lo) = lo := by
  apply BitVec.eq_of_toNat_eq; simp [joinBytes, lowByte]; omega

/-! ## What decode can answer (30_encoding.md R95) -/

theorem decodeAlu_cases {op : Word} (hf : family op = 0x8) :
    decodeAlu op = .unknown op ∨ ∃ i, decodeAlu op = .instr i ∧ encode i = op := by
  have h := wordXYN_fields op
  rw [hf] at h
  unfold decodeAlu
  simp only []
  repeat' split
  all_goals first
    | exact .inl rfl
    | (rename_i hn; rw [hn] at h; exact .inr ⟨_, rfl, h⟩)

theorem decodeKeySkip_cases {op : Word} (hf : family op = 0xE) :
    decodeKeySkip op = .unknown op ∨ ∃ i, decodeKeySkip op = .instr i ∧ encode i = op := by
  have h := wordXNN_fields op
  rw [hf] at h
  unfold decodeKeySkip
  repeat' split
  all_goals first
    | exact .inl rfl
    | (rename_i hn; rw [hn] at h; exact .inr ⟨_, rfl, h⟩)

theorem decodeMisc_cases {op : Word} (hf : family op = 0xF) :
    decodeMisc op = .unknown op ∨ ∃ i, decodeMisc op = .instr i ∧ encode i = op := by
  have h := wordXNN_fields op
  rw [hf] at h
  unfold decodeMisc
  simp only []
  repeat' split
  all_goals first
    | exact .inl rfl
    | (rename_i hn; rw [hn] at h; exact .inr ⟨_, rfl, h⟩)

theorem family_cases (f : Nibble) : f = 0x0 ∨ f = 0x1 ∨ f = 0x2 ∨ f = 0x3 ∨ f = 0x4 ∨ f = 0x5 ∨ f = 0x6 ∨ f = 0x7 ∨
    f = 0x8 ∨ f = 0x9 ∨ f = 0xA ∨ f = 0xB ∨ f = 0xC ∨ f = 0xD ∨ f = 0xE ∨ f = 0xF := by
  revert f; decide

/-- A word is Unknown and carried whole, or its instruction encodes back to it. -/
theorem decode_cases (op : Word) : decode op = .unknown op ∨ ∃ i, decode op = .instr i ∧ encode i = op := by
  have h1 := wordNNN_fields op
  have h2 := wordXNN_fields op
  have h3 := wordXYN_fields op
  rcases family_cases (family op) with hf | hf | hf | hf | hf | hf | hf | hf | hf | hf | hf | hf | hf | hf | hf | hf <;>
    rw [hf] at h1 h2 h3
  · by_cases h : op = 0x00E0
    · exact .inr ⟨.cls, by subst h; rfl, h.symm⟩
    by_cases h' : op = 0x00EE
    · exact .inr ⟨.ret, by subst h'; rfl, h'.symm⟩
    left; unfold decode; simp only [hf, ↓reduceIte, h, h']
  · exact .inr ⟨.jp (fieldNNN op), by simp [decode, hf], h1⟩
  · exact .inr ⟨.call (fieldNNN op), by simp [decode, hf], h1⟩
  · exact .inr ⟨.seImm (fieldX op) (fieldNN op), by simp [decode, hf], h2⟩
  · exact .inr ⟨.sneImm (fieldX op) (fieldNN op), by simp [decode, hf], h2⟩
  · by_cases h : fieldN op = 0
    · rw [h] at h3; exact .inr ⟨.seReg (fieldX op) (fieldY op), by simp [decode, hf, h], h3⟩
    · exact .inl (by simp only [decode, hf, h]; rfl)
  · exact .inr ⟨.ldImm (fieldX op) (fieldNN op), by simp [decode, hf], h2⟩
  · exact .inr ⟨.addImm (fieldX op) (fieldNN op), by simp [decode, hf], h2⟩
  · have : decode op = decodeAlu op := by simp [decode, hf]
    rw [this]; exact decodeAlu_cases hf
  · by_cases h : fieldN op = 0
    · rw [h] at h3; exact .inr ⟨.sneReg (fieldX op) (fieldY op), by simp [decode, hf, h], h3⟩
    · exact .inl (by simp only [decode, hf, h]; rfl)
  · exact .inr ⟨.ldI (fieldNNN op), by simp [decode, hf], h1⟩
  · exact .inr ⟨.jpV0 (fieldNNN op), by simp [decode, hf], h1⟩
  · exact .inr ⟨.rnd (fieldX op) (fieldNN op), by simp [decode, hf], h2⟩
  · exact .inr ⟨.drw (fieldX op) (fieldY op) (fieldN op), by simp [decode, hf], h3⟩
  · have : decode op = decodeKeySkip op := by simp [decode, hf]
    rw [this]; exact decodeKeySkip_cases hf
  · have : decode op = decodeMisc op := by simp [decode, hf]
    rw [this]; exact decodeMisc_cases hf

theorem encode_of_decode {op : Word} {i : Instr} (h : decode op = .instr i) : encode i = op := by
  obtain h' | ⟨j, hj, he⟩ := decode_cases op
  · rw [h'] at h; cases h
  · rw [hj] at h; cases h; exact he

theorem word_of_unknown {op w : Word} (h : decode op = .unknown w) : w = op := by
  obtain h' | ⟨j, hj, -⟩ := decode_cases op
  · rw [h'] at h; cases h; rfl
  · rw [hj] at h; cases h

/-! ## Masks: what the four masks of 30_encoding.md R88 keep of a word -/

theorem mask_family (op b : Word) (h : op &&& 0xF000 = b) : family op = family b := by
  subst h; ext i hi; simp only [family]; interval_cases i <;> simp

theorem mask_familyN (op b : Word) (h : op &&& 0xF00F = b) : family op = family b ∧ fieldN op = fieldN b := by
  subst h; constructor <;> ext i hi <;> simp only [family, fieldN] <;> interval_cases i <;> simp

theorem mask_familyNN (op b : Word) (h : op &&& 0xF0FF = b) : family op = family b ∧ fieldNN op = fieldNN b := by
  subst h; constructor <;> ext i hi <;> simp only [family, fieldNN] <;> interval_cases i <;> simp

theorem and_F000_eq_iff {op b : Word} (hb : b &&& 0xF000 = b) : op &&& 0xF000 = b ↔ family op = family b := by
  refine ⟨mask_family op b, fun h => ?_⟩
  have hk : ∀ k, k < 4 → op.getLsbD (12 + k) = b.getLsbD (12 + k) := fun k hk => by
    simpa [family, hk] using congrArg (·.getLsbD k) h
  have h0 := hk 0; have h1 := hk 1; have h2 := hk 2; have h3 := hk 3
  refine Eq.trans ?_ hb; clear hb; ext i hi
  interval_cases i <;> simp_all

theorem and_F00F_eq_iff {op b : Word} (hb : b &&& 0xF00F = b) :
    op &&& 0xF00F = b ↔ family op = family b ∧ fieldN op = fieldN b := by
  refine ⟨mask_familyN op b, fun h => ?_⟩
  have hk : ∀ k, k < 4 → op.getLsbD (12 + k) = b.getLsbD (12 + k) := fun k hk => by
    simpa [family, hk] using congrArg (·.getLsbD k) h.1
  have hn : ∀ k, k < 4 → op.getLsbD k = b.getLsbD k := fun k hk => by
    simpa [fieldN, hk] using congrArg (·.getLsbD k) h.2
  have h0 := hk 0; have h1 := hk 1; have h2 := hk 2; have h3 := hk 3
  have n0 := hn 0; have n1 := hn 1; have n2 := hn 2; have n3 := hn 3
  refine Eq.trans ?_ hb; clear hb; ext i hi
  interval_cases i <;> simp_all

theorem and_F0FF_eq_iff {op b : Word} (hb : b &&& 0xF0FF = b) :
    op &&& 0xF0FF = b ↔ family op = family b ∧ fieldNN op = fieldNN b := by
  refine ⟨mask_familyNN op b, fun h => ?_⟩
  have hk : ∀ k, k < 4 → op.getLsbD (12 + k) = b.getLsbD (12 + k) := fun k hk => by
    simpa [family, hk] using congrArg (·.getLsbD k) h.1
  have hn : ∀ k, k < 8 → op.getLsbD k = b.getLsbD k := fun k hk => by
    simpa [fieldNN, hk] using congrArg (·.getLsbD k) h.2
  have h0 := hk 0; have h1 := hk 1; have h2 := hk 2; have h3 := hk 3
  have n0 := hn 0; have n1 := hn 1; have n2 := hn 2; have n3 := hn 3
  have n4 := hn 4; have n5 := hn 5; have n6 := hn 6; have n7 := hn 7
  refine Eq.trans ?_ hb; clear hb; ext i hi
  interval_cases i <;> simp_all

theorem and_FFFF (op : Word) : op &&& 0xFFFF = op := by
  ext i hi; interval_cases i <;> simp

end Sys2Proof
end

