-- ==== Sys2Proof/Laws/Cycle.lean ====
section
/-! SUPPORT. What exec, a CYCLE and a command can do, said once: later proofs cite these and unfold nothing. -/

namespace Sys2Proof.Machine

/-! ## exec -/

theorem checked_answers (chk : Option Cause) (op : Word) (s t : State) : ∃ u, checked chk op s t = .next u := by
  cases chk <;> exact ⟨_, rfl⟩

/-- 00EE with a return address on the stack (41_flow.md R120). -/
theorem execRet_of_pos {s : State} (h : 0 < s.sp.val) :
    execRet s = .next { s with sp := ⟨s.sp.val - 1, by omega⟩, pc := s.stack[s.sp.val - 1] } := by
  simp [execRet, State.pop, h, State.setPc]

theorem execRet_of_zero {s : State} (h : s.sp.val = 0) : execRet s = .next (s.takeFault .stackUnderflow 0x00EE) := by
  simp [execRet, State.pop_eq_none.2 h, raise, encode]

/-- 2NNN with a free slot on the stack (41_flow.md R122). -/
theorem execCall_of_lt {nnn : Addr} {s : State} (h : s.sp.val < 16) :
    execCall nnn s = .next { s with stack := s.stack.set s.sp.val (s.pc + 2), sp := ⟨s.sp.val + 1, by omega⟩,
                                    pc := addrOperand nnn } := by
  simp [execCall, State.push, h, State.setPc]

theorem execCall_of_full {nnn : Addr} {s : State} (h : s.sp.val = 16) :
    execCall nnn s = .next (s.takeFault .stackOverflow (encode (.call nnn))) := by
  simp [execCall, State.push_eq_none.2 h, raise]

/-- Every meaning answers a next state. -/
theorem exec_answers (i : Instr) (s : State) : ∃ t, exec i s = .next t := by
  cases i with
  | ret => simp only [exec, execRet]; split <;> exact ⟨_, rfl⟩
  | call nnn => simp only [exec, execCall]; split <;> exact ⟨_, rfl⟩
  | skp x => exact checked_answers ..
  | sknp x => exact checked_answers ..
  | ldFVx x => exact checked_answers ..
  | ldBVx x => exact checked_answers ..
  | ldMemVx x => exact checked_answers ..
  | ldVxMem x => exact checked_answers ..
  | drw x y n => exact checked_answers ..
  | _ => exact ⟨_, rfl⟩

/-- Keys, parameters, ports and the command queue are outside the reach of every instruction. -/
structure HostSideKept (s t : State) : Prop where
  keys : t.keys = s.keys
  latchKey : t.latchKey = s.latchKey
  cfg : t.cfg = s.cfg
  rnd : t.rnd = s.rnd
  resp : t.resp = s.resp
  pending : t.pending = s.pending
  draws : t.draws = s.draws

theorem hostSideKept_checked {chk : Option Cause} {op : Word} {s t u : State} (ht : HostSideKept s t)
    (h : checked chk op s t = .next u) : HostSideKept s u := by
  obtain ⟨c, -, rfl⟩ | ⟨-, rfl⟩ := checked_cases h
  · constructor <;> rfl
  · exact ht

theorem exec_hostSideKept {i : Instr} {s t : State} (h : exec i s = .next t) : HostSideKept s t := by
  cases i with
  | ret =>
    rcases Nat.eq_zero_or_pos s.sp.val with hs | hs
    · cases (execRet_of_zero hs).symm.trans h; constructor <;> rfl
    · cases (execRet_of_pos hs).symm.trans h; constructor <;> rfl
  | call nnn =>
    rcases Nat.lt_or_ge s.sp.val 16 with hs | hs
    · cases (execCall_of_lt hs).symm.trans h; constructor <;> rfl
    · cases (execCall_of_full (by omega)).symm.trans h; constructor <;> rfl
  | skp x => exact hostSideKept_checked (by constructor <;> rfl) h
  | sknp x => exact hostSideKept_checked (by constructor <;> rfl) h
  | ldFVx x => exact hostSideKept_checked (by constructor <;> rfl) h
  | ldBVx x => exact hostSideKept_checked (by constructor <;> rfl) h
  | ldMemVx x => exact hostSideKept_checked (by constructor <;> simp) h
  | ldVxMem x => exact hostSideKept_checked (by constructor <;> simp) h
  | drw x y n => exact hostSideKept_checked (by constructor <;> rfl) h
  | _ => cases h; constructor <;> rfl

/-! ## Which instructions fault, and on what (60_exceptions.md R250) -/

/-- The fault `c` is the one instruction `i` takes in `s`. -/
def FaultCause : Instr → State → Cause → Prop
  | .ret, s, c => s.sp.val = 0 ∧ c = .stackUnderflow
  | .call _, s, c => s.sp.val = 16 ∧ c = .stackOverflow
  | .drw _ _ n, s, c => checkSprite s.base n = some c
  | .skp x, s, c | .sknp x, s, c | .ldFVx x, s, c => checkNibble (s.getV x) = some c
  | .ldBVx _, s, c => checkWrite s.base 3 = some c
  | .ldMemVx x, s, c => checkWrite s.base (x.toNat + 1) = some c
  | .ldVxMem x, s, c => checkRead s.base (x.toNat + 1) = some c
  | _, _, _ => False

/-- The four fault registers are as before. -/
structure FaultRegsKept (s t : State) : Prop where
  halted : t.halted = s.halted
  code : t.faultCode = s.faultCode
  pc : t.faultPc = s.faultPc
  op : t.faultOp = s.faultOp

theorem checked_fault_cases {chk : Option Cause} {op : Word} {s t u : State} (h : checked chk op s u = .next t)
    (hu : FaultRegsKept s u) : (∃ c, chk = some c ∧ t = s.takeFault c op) ∨ FaultRegsKept s t := by
  obtain h | ⟨-, rfl⟩ := checked_cases h
  · exact .inl h
  · exact .inr hu

/-- An instruction takes its fault, with its own word recorded, or leaves the fault registers alone. -/
theorem exec_fault_cases {i : Instr} {s t : State} (h : exec i s = .next t) :
    (∃ c, FaultCause i s c ∧ t = s.takeFault c (encode i)) ∨ FaultRegsKept s t := by
  cases i with
  | ret =>
    rcases Nat.eq_zero_or_pos s.sp.val with hs | hs
    · cases (execRet_of_zero hs).symm.trans h; exact .inl ⟨_, ⟨hs, rfl⟩, rfl⟩
    · cases (execRet_of_pos hs).symm.trans h; right; constructor <;> rfl
  | call nnn =>
    rcases Nat.lt_or_ge s.sp.val 16 with hs | hs
    · cases (execCall_of_lt hs).symm.trans h; right; constructor <;> rfl
    · have hs : s.sp.val = 16 := by omega
      cases (execCall_of_full hs).symm.trans h; exact .inl ⟨_, ⟨hs, rfl⟩, rfl⟩
  | skp x => exact checked_fault_cases h (by constructor <;> rfl)
  | sknp x => exact checked_fault_cases h (by constructor <;> rfl)
  | ldFVx x => exact checked_fault_cases h (by constructor <;> rfl)
  | ldBVx x => exact checked_fault_cases h (by constructor <;> rfl)
  | ldMemVx x => exact checked_fault_cases h (by constructor <;> simp)
  | ldVxMem x => exact checked_fault_cases h (by constructor <;> simp)
  | drw x y n => exact checked_fault_cases h (by constructor <;> rfl)
  | _ => cases h; right; constructor <;> rfl

/-! ## Fetch (40_cycle.md R102) -/

theorem State.fetch_eq_none {s : State} : s.fetch = none ↔ 0xFFE < s.pc.toNat := by
  unfold State.fetch; split <;> simp <;> omega

theorem State.fetch_eq_some {s : State} {op : Word} : s.fetch = some op ↔
    s.pc.toNat ≤ 0xFFE ∧ op = joinBytes (s.byteAt s.pc.toNat) (s.byteAt (s.pc.toNat + 1)) := by
  unfold State.fetch; split
  · simp; omega
  · simp only [Option.some.injEq]
    exact ⟨fun h => ⟨by omega, h.symm⟩, fun h => h.2.symm⟩

theorem State.fetch_congr {s t : State} (hp : t.pc = s.pc) (hc : t.cfg = s.cfg) (hm : t.mem = s.mem) :
    t.fetch = s.fetch := by
  simp [State.fetch, hp, State.byteAt_congr hc hm]

/-! ## A CYCLE (40_cycle.md R100) -/

/-- What a CYCLE can do: nothing on a halted core, the wait step on a waiting one, else a fetch fault, an Unknown word's fault,
or the instruction at PC. -/
theorem cycle_cases {s t : State} (h : cycle s = .next t) :
    (s.halted = true ∧ t = s) ∨
    (s.halted = false ∧ s.awaiting = true ∧ t = s.waitStep) ∨
    (s.halted = false ∧ s.awaiting = false ∧ s.fetch = none ∧ t = s.takeFault .fetchOutOfBounds 0x0000) ∨
    (∃ op w, s.halted = false ∧ s.awaiting = false ∧ s.fetch = some op ∧ decode op = .unknown w ∧
      t = s.takeFault .unknownOpcode w) ∨
    (∃ op i, s.halted = false ∧ s.awaiting = false ∧ s.fetch = some op ∧ decode op = .instr i ∧ exec i s = .next t) := by
  unfold cycle at h
  split at h
  · rename_i hh; exact .inl ⟨hh, by simpa using h.symm⟩
  rename_i hh
  rw [Bool.not_eq_true] at hh
  split at h
  · rename_i ha; exact .inr (.inl ⟨hh, ha, by simpa using h.symm⟩)
  rename_i ha
  rw [Bool.not_eq_true] at ha
  split at h
  · rename_i hf; exact .inr (.inr (.inl ⟨hh, ha, hf, by simpa [raise] using h.symm⟩))
  rename_i op hf
  unfold execWord at h
  split at h
  · rename_i i hd; exact .inr (.inr (.inr (.inr ⟨op, i, hh, ha, hf, hd, h⟩)))
  · rename_i w hd; exact .inr (.inr (.inr (.inl ⟨op, w, hh, ha, hf, hd, by simpa [raise] using h.symm⟩)))

theorem cycle_halted {s : State} (h : s.halted = true) : cycle s = .next s := by simp [cycle, h]

theorem cycle_waiting {s : State} (h : s.halted = false) (ha : s.awaiting = true) : cycle s = .next s.waitStep := by
  simp [cycle, h, ha]

theorem cycle_fetch_none {s : State} (h : s.halted = false) (ha : s.awaiting = false) (hf : s.fetch = none) :
    cycle s = .next (s.takeFault .fetchOutOfBounds 0x0000) := by
  simp [cycle, h, ha, hf, raise]

theorem cycle_fetch_some {s : State} {op : Word} (h : s.halted = false) (ha : s.awaiting = false)
    (hf : s.fetch = some op) : cycle s = execWord op s := by
  simp [cycle, h, ha, hf]

theorem cycle_answers (s : State) : ∃ t, cycle s = .next t := by
  unfold cycle execWord
  split
  · exact ⟨_, rfl⟩
  split
  · exact ⟨_, rfl⟩
  split
  · exact ⟨_, rfl⟩
  split
  · exact exec_answers ..
  · exact ⟨_, rfl⟩

/-! ## Commands (47_interface.md R230) -/

theorem runCycle_eq {r : Byte} {s t : State} (h : cycle { s with rnd := r } = .next t) :
    runCycle r s = .next (t.respond t.cycleResponse) := by
  unfold runCycle; rw [h]

theorem runCycle_cases {r : Byte} {s u : State} (h : runCycle r s = .next u) :
    ∃ t, cycle { s with rnd := r } = .next t ∧ u = t.respond t.cycleResponse := by
  obtain ⟨t, ht⟩ := cycle_answers { s with rnd := r }
  exact ⟨t, ht, by rw [runCycle_eq ht] at h; simpa using h.symm⟩

theorem perform_answers (c : Command) (s : State) : ∃ t, perform c s = .next t := by
  cases c with
  | cycle r =>
    obtain ⟨t, ht⟩ := cycle_answers { s with rnd := r }
    exact ⟨_, runCycle_eq ht⟩
  | tick => exact ⟨_, rfl⟩
  | setKey k p => exact ⟨_, rfl⟩
  | load image => exact ⟨_, rfl⟩

/-- The next command: the oldest pending one, or a CYCLE with a fresh draw. -/
theorem State.nextCommand_cases (s : State) :
    (s.pending = [] ∧ s.nextCommand = (.cycle (Config.draw s.draws), { s with draws := s.draws + 1 })) ∨
    (∃ c cs, s.pending = c :: cs ∧ s.nextCommand = (c, { s with pending := cs })) := by
  unfold State.nextCommand
  split
  · rename_i h; exact .inl ⟨h, rfl⟩
  · rename_i c cs h; exact .inr ⟨c, cs, h, rfl⟩

end Sys2Proof.Machine
end

