-- ==== Sys2Proof/Laws/Commands.lean ====
section
/-! SUPPORT. What each host command answers, said once (47_interface.md R230-R237, 60_exceptions.md R254, R262). -/

namespace Sys2Proof.Machine

theorem answer_eq (r : State × Response) : answer r = .next (r.1.respond r.2) := rfl

/-! ## TICK -/

theorem countDown_toNat : ∀ b : Byte, (countDown b).toNat = b.toNat - 1 := by decide

theorem tick_running {s : State} (h : s.halted = false) :
    tick s = ({ s with dt := countDown s.dt, st := countDown s.st }, .ok) := by simp [tick, h]

theorem tick_halted {s : State} (h : s.halted = true) : tick s = (s, s.faultReport) := by simp [tick, h]

/-! ## CYCLE -/

theorem runCycle_halted {s : State} (h : s.halted = true) (rnd : Byte) :
    runCycle rnd s = .next (State.respond s.faultReport { s with rnd := rnd }) := by
  refine (runCycle_eq (cycle_halted (s := { s with rnd := rnd }) h)).trans ?_
  rw [State.cycleResponse, if_pos h]; rfl

/-! ## SET_KEY -/

theorem setKey_rejected {s : State} {k : Byte} (p : Bool) (h : 15 < k.toNat) :
    setKey k p s = (s, .rejected .invalidKeyIndex) := by
  have hk : k > 15 := by rw [gt_iff_lt, BitVec.lt_def]; exact h
  rw [setKey, if_pos hk]

theorem setKey_accepted {s : State} {k : Byte} (p : Bool) (h : k.toNat < 16) :
    setKey k p s = ((if s.qualifies k p then s.latch k else s).setKeyLevel k p, .ok) := by
  have hk : ¬k > 15 := by rw [gt_iff_lt, BitVec.lt_def]; exact Nat.not_lt.2 (Nat.le_of_lt_succ h)
  rw [setKey, if_neg hk]

theorem State.qualifies_iff {s : State} {k : Byte} {p : Bool} (h : k.toNat < 16) : s.qualifies k p = true ↔
    p = true ∧ s.keys[k.toNat] = false ∧ s.awaiting = true ∧ s.latchValid = false := by
  simp [State.qualifies, State.keyAt, h, and_assoc]

theorem State.setKeyLevel_of_lt {s : State} {k : Byte} (p : Bool) (h : k.toNat < 16) :
    s.setKeyLevel k p = { s with keys := s.keys.set k.toNat p } := by
  rw [State.setKeyLevel, Vector.setIfInBounds, Vector.set]
  congr 2
  exact Array.setIfInBounds_def .. |>.trans (dif_pos (by simpa using h))

/-! ## LOAD -/

theorem load_rejected {s : State} {image : List Byte} (h : 3584 < image.length) : load image s = (s, .rejected .loadError) :=
  if_pos h

theorem load_accepted {s : State} {image : List Byte} (h : image.length ≤ 3584) :
    load image s = (s.coreReset.store progBase image, .ok) := if_neg (Nat.not_lt.2 h)

/-- Memory after a LOAD: the image at 0x200, and everywhere else what reset leaves (70_reset_and_hazards.md R282). -/
theorem State.byteAt_load {s : State} {image : List Byte} (h : image.length ≤ 3584) (q : Nat) :
    (s.coreReset.store progBase image).byteAt q =
      if 0x200 ≤ q ∧ q < 0x200 + image.length then image[q - 0x200]?.getD 0 else unlistedByte s.cfg q :=
  State.byteAt_store (s := s.coreReset) (a := progBase) rfl (by simp only [progBase]; omega) q

end Sys2Proof.Machine
end

