-- ==== Sys2Proof/Laws/PerInstr.lean ====
section
/-! SUPPORT. One lemma per instruction about its syntax: it belongs to a well-formed row of the opcode table, and its encoding
lies in that row (30_encoding.md R86, R88). -/

namespace Sys2Proof.Laws.EncodesInItsRow

/-- The instruction is well formed, and its word has its row's bits under its row's mask. -/
def Statement (i : Instr) : Prop := i.wellFormed = true ∧ encode i &&& i.row.mask = i.row.bits

theorem of_full {i : Instr} (hw : i.wellFormed = true) (hm : i.row.mask = 0xFFFF) (h : encode i = i.row.bits) :
    Statement i := ⟨hw, by rw [hm, and_FFFF, h]⟩

theorem of_family {i : Instr} (hw : i.wellFormed = true) (hm : i.row.mask = 0xF000)
    (hb : i.row.bits &&& 0xF000 = i.row.bits) {f : Nibble} (h : family (encode i) = f)
    (hf : family i.row.bits = f) : Statement i :=
  ⟨hw, by rw [hm]; exact (and_F000_eq_iff hb).2 (h.trans hf.symm)⟩

theorem of_familyN {i : Instr} (hw : i.wellFormed = true) (hm : i.row.mask = 0xF00F)
    (hb : i.row.bits &&& 0xF00F = i.row.bits) {f n : Nibble} (h : family (encode i) = f)
    (hn : fieldN (encode i) = n) (hfn : family i.row.bits = f ∧ fieldN i.row.bits = n) : Statement i :=
  ⟨hw, by rw [hm]; exact (and_F00F_eq_iff hb).2 ⟨h.trans hfn.1.symm, hn.trans hfn.2.symm⟩⟩

theorem of_familyNN {i : Instr} (hw : i.wellFormed = true) (hm : i.row.mask = 0xF0FF)
    (hb : i.row.bits &&& 0xF0FF = i.row.bits) {f : Nibble} {n : Byte} (h : family (encode i) = f)
    (hn : fieldNN (encode i) = n) (hfn : family i.row.bits = f ∧ fieldNN i.row.bits = n) : Statement i :=
  ⟨hw, by rw [hm]; exact (and_F0FF_eq_iff hb).2 ⟨h.trans hfn.1.symm, hn.trans hfn.2.symm⟩⟩

theorem cls : Statement .cls :=
  of_full (by simp only [Instr.wellFormed, Instr.row]; decide) rfl rfl
theorem ret : Statement .ret :=
  of_full (by simp only [Instr.wellFormed, Instr.row]; decide) rfl rfl
theorem jp (nnn : Addr) : Statement (.jp nnn) :=
  of_family (by simp only [Instr.wellFormed, Instr.row]; decide) rfl (by simp only [Instr.row]; decide)
    (family_wordNNN ..) (by simp only [Instr.row]; decide)
theorem call (nnn : Addr) : Statement (.call nnn) :=
  of_family (by simp only [Instr.wellFormed, Instr.row]; decide) rfl (by simp only [Instr.row]; decide)
    (family_wordNNN ..) (by simp only [Instr.row]; decide)
theorem seImm (x : Nibble) (nn : Byte) : Statement (.seImm x nn) :=
  of_family (by simp only [Instr.wellFormed, Instr.row]; decide) rfl (by simp only [Instr.row]; decide)
    (family_wordXNN ..) (by simp only [Instr.row]; decide)
theorem sneImm (x : Nibble) (nn : Byte) : Statement (.sneImm x nn) :=
  of_family (by simp only [Instr.wellFormed, Instr.row]; decide) rfl (by simp only [Instr.row]; decide)
    (family_wordXNN ..) (by simp only [Instr.row]; decide)
theorem seReg (x : Nibble) (y : Nibble) : Statement (.seReg x y) :=
  of_familyN (by simp only [Instr.wellFormed, Instr.row]; decide) rfl (by simp only [Instr.row]; decide)
    (family_wordXYN ..) (fieldN_wordXYN ..) (by simp only [Instr.row]; decide)
theorem ldImm (x : Nibble) (nn : Byte) : Statement (.ldImm x nn) :=
  of_family (by simp only [Instr.wellFormed, Instr.row]; decide) rfl (by simp only [Instr.row]; decide)
    (family_wordXNN ..) (by simp only [Instr.row]; decide)
theorem addImm (x : Nibble) (nn : Byte) : Statement (.addImm x nn) :=
  of_family (by simp only [Instr.wellFormed, Instr.row]; decide) rfl (by simp only [Instr.row]; decide)
    (family_wordXNN ..) (by simp only [Instr.row]; decide)
theorem ldReg (x : Nibble) (y : Nibble) : Statement (.ldReg x y) :=
  of_familyN (by simp only [Instr.wellFormed, Instr.row]; decide) rfl (by simp only [Instr.row]; decide)
    (family_wordXYN ..) (fieldN_wordXYN ..) (by simp only [Instr.row]; decide)
theorem or (x : Nibble) (y : Nibble) : Statement (.or x y) :=
  of_familyN (by simp only [Instr.wellFormed, Instr.row]; decide) rfl (by simp only [Instr.row]; decide)
    (family_wordXYN ..) (fieldN_wordXYN ..) (by simp only [Instr.row]; decide)
theorem and (x : Nibble) (y : Nibble) : Statement (.and x y) :=
  of_familyN (by simp only [Instr.wellFormed, Instr.row]; decide) rfl (by simp only [Instr.row]; decide)
    (family_wordXYN ..) (fieldN_wordXYN ..) (by simp only [Instr.row]; decide)
theorem xor (x : Nibble) (y : Nibble) : Statement (.xor x y) :=
  of_familyN (by simp only [Instr.wellFormed, Instr.row]; decide) rfl (by simp only [Instr.row]; decide)
    (family_wordXYN ..) (fieldN_wordXYN ..) (by simp only [Instr.row]; decide)
theorem addReg (x : Nibble) (y : Nibble) : Statement (.addReg x y) :=
  of_familyN (by simp only [Instr.wellFormed, Instr.row]; decide) rfl (by simp only [Instr.row]; decide)
    (family_wordXYN ..) (fieldN_wordXYN ..) (by simp only [Instr.row]; decide)
theorem sub (x : Nibble) (y : Nibble) : Statement (.sub x y) :=
  of_familyN (by simp only [Instr.wellFormed, Instr.row]; decide) rfl (by simp only [Instr.row]; decide)
    (family_wordXYN ..) (fieldN_wordXYN ..) (by simp only [Instr.row]; decide)
theorem shr (x : Nibble) (y : Nibble) : Statement (.shr x y) :=
  of_familyN (by simp only [Instr.wellFormed, Instr.row]; decide) rfl (by simp only [Instr.row]; decide)
    (family_wordXYN ..) (fieldN_wordXYN ..) (by simp only [Instr.row]; decide)
theorem subn (x : Nibble) (y : Nibble) : Statement (.subn x y) :=
  of_familyN (by simp only [Instr.wellFormed, Instr.row]; decide) rfl (by simp only [Instr.row]; decide)
    (family_wordXYN ..) (fieldN_wordXYN ..) (by simp only [Instr.row]; decide)
theorem shl (x : Nibble) (y : Nibble) : Statement (.shl x y) :=
  of_familyN (by simp only [Instr.wellFormed, Instr.row]; decide) rfl (by simp only [Instr.row]; decide)
    (family_wordXYN ..) (fieldN_wordXYN ..) (by simp only [Instr.row]; decide)
theorem sneReg (x : Nibble) (y : Nibble) : Statement (.sneReg x y) :=
  of_familyN (by simp only [Instr.wellFormed, Instr.row]; decide) rfl (by simp only [Instr.row]; decide)
    (family_wordXYN ..) (fieldN_wordXYN ..) (by simp only [Instr.row]; decide)
theorem ldI (nnn : Addr) : Statement (.ldI nnn) :=
  of_family (by simp only [Instr.wellFormed, Instr.row]; decide) rfl (by simp only [Instr.row]; decide)
    (family_wordNNN ..) (by simp only [Instr.row]; decide)
theorem jpV0 (nnn : Addr) : Statement (.jpV0 nnn) :=
  of_family (by simp only [Instr.wellFormed, Instr.row]; decide) rfl (by simp only [Instr.row]; decide)
    (family_wordNNN ..) (by simp only [Instr.row]; decide)
theorem rnd (x : Nibble) (nn : Byte) : Statement (.rnd x nn) :=
  of_family (by simp only [Instr.wellFormed, Instr.row]; decide) rfl (by simp only [Instr.row]; decide)
    (family_wordXNN ..) (by simp only [Instr.row]; decide)
theorem drw (x : Nibble) (y : Nibble) (n : Nibble) : Statement (.drw x y n) :=
  of_family (by simp only [Instr.wellFormed, Instr.row]; decide) rfl (by simp only [Instr.row]; decide)
    (family_wordXYN ..) (by simp only [Instr.row]; decide)
theorem skp (x : Nibble) : Statement (.skp x) :=
  of_familyNN (by simp only [Instr.wellFormed, Instr.row]; decide) rfl (by simp only [Instr.row]; decide)
    (family_wordXNN ..) (fieldNN_wordXNN ..) (by simp only [Instr.row]; decide)
theorem sknp (x : Nibble) : Statement (.sknp x) :=
  of_familyNN (by simp only [Instr.wellFormed, Instr.row]; decide) rfl (by simp only [Instr.row]; decide)
    (family_wordXNN ..) (fieldNN_wordXNN ..) (by simp only [Instr.row]; decide)
theorem ldVxDt (x : Nibble) : Statement (.ldVxDt x) :=
  of_familyNN (by simp only [Instr.wellFormed, Instr.row]; decide) rfl (by simp only [Instr.row]; decide)
    (family_wordXNN ..) (fieldNN_wordXNN ..) (by simp only [Instr.row]; decide)
theorem ldVxK (x : Nibble) : Statement (.ldVxK x) :=
  of_familyNN (by simp only [Instr.wellFormed, Instr.row]; decide) rfl (by simp only [Instr.row]; decide)
    (family_wordXNN ..) (fieldNN_wordXNN ..) (by simp only [Instr.row]; decide)
theorem ldDtVx (x : Nibble) : Statement (.ldDtVx x) :=
  of_familyNN (by simp only [Instr.wellFormed, Instr.row]; decide) rfl (by simp only [Instr.row]; decide)
    (family_wordXNN ..) (fieldNN_wordXNN ..) (by simp only [Instr.row]; decide)
theorem ldStVx (x : Nibble) : Statement (.ldStVx x) :=
  of_familyNN (by simp only [Instr.wellFormed, Instr.row]; decide) rfl (by simp only [Instr.row]; decide)
    (family_wordXNN ..) (fieldNN_wordXNN ..) (by simp only [Instr.row]; decide)
theorem addIVx (x : Nibble) : Statement (.addIVx x) :=
  of_familyNN (by simp only [Instr.wellFormed, Instr.row]; decide) rfl (by simp only [Instr.row]; decide)
    (family_wordXNN ..) (fieldNN_wordXNN ..) (by simp only [Instr.row]; decide)
theorem ldFVx (x : Nibble) : Statement (.ldFVx x) :=
  of_familyNN (by simp only [Instr.wellFormed, Instr.row]; decide) rfl (by simp only [Instr.row]; decide)
    (family_wordXNN ..) (fieldNN_wordXNN ..) (by simp only [Instr.row]; decide)
theorem ldBVx (x : Nibble) : Statement (.ldBVx x) :=
  of_familyNN (by simp only [Instr.wellFormed, Instr.row]; decide) rfl (by simp only [Instr.row]; decide)
    (family_wordXNN ..) (fieldNN_wordXNN ..) (by simp only [Instr.row]; decide)
theorem ldMemVx (x : Nibble) : Statement (.ldMemVx x) :=
  of_familyNN (by simp only [Instr.wellFormed, Instr.row]; decide) rfl (by simp only [Instr.row]; decide)
    (family_wordXNN ..) (fieldNN_wordXNN ..) (by simp only [Instr.row]; decide)
theorem ldVxMem (x : Nibble) : Statement (.ldVxMem x) :=
  of_familyNN (by simp only [Instr.wellFormed, Instr.row]; decide) rfl (by simp only [Instr.row]; decide)
    (family_wordXNN ..) (fieldNN_wordXNN ..) (by simp only [Instr.row]; decide)

end Sys2Proof.Laws.EncodesInItsRow
end

