-- ==== Sys2Proof/Tests/Slice0.lean ====
section
/-! SUPPORT. Tests. Expected values are the vectors S1-S10 and V1-V100 of 95_test_vectors.md, the encodings of
30_encoding.md and the rules named at each test; then, for every obligation with hypotheses, states that meet them. -/

namespace Sys2Proof.Machine.Tests

open Sys2Proof Sys2Proof.Machine

/-! ## Well-formedness: each check refuses an ill-formed term -/

theorem test_table_wellFormed : tableWellFormed opcodeTable = true := by decide
theorem test_table_has_34_rows : opcodeTable.length = 34 := by decide
/-- A mask that is none of the table's four (30_encoding.md R88). -/
theorem test_row_refuses_mask : Row.wellFormed ⟨0xFF00, 0x1000⟩ = false := by decide
/-- A match with a bit outside its mask. -/
theorem test_row_refuses_match : Row.wellFormed ⟨0xF000, 0x1001⟩ = false := by decide
/-- Two rows with a common word, 0x8006. -/
theorem test_table_refuses_overlap : tableWellFormed [⟨0xF00F, 0x8006⟩, ⟨0xF000, 0x8000⟩] = false := by decide
/-- FONT_BASE + 80 ≤ 0x200 (10_state.md R34): 0x1B0 is the last base that fits. -/
theorem test_config_wellFormed : Config.wellFormed { standardConfig with fontBase := 0x1B0 } = true := by decide
theorem test_config_refuses_font : Config.wellFormed { standardConfig with fontBase := 0x1B1 } = false := by decide
theorem test_instr_wellFormed : Instr.wellFormed (.shr 0xF 0xF) = true := by decide
/-- A word outside an instruction's row is not admitted by it. -/
theorem test_row_admits : Row.admits (Instr.row (.seReg 0 0)) 0x5230 = true ∧
    Row.admits (Instr.row (.seReg 0 0)) 0x5231 = false := by decide

/-! ## Decoding: a written-out word of every instruction (30_encoding.md R84, R86) -/

theorem test_decode_family_0 : decode 0x00E0 = .instr .cls ∧ decode 0x00EE = .instr .ret := by decide
theorem test_decode_family_1_2 : decode 0x1ABC = .instr (.jp 0xABC) ∧ decode 0x2ABC = .instr (.call 0xABC) := by decide
theorem test_decode_family_3_4 : decode 0x3A5C = .instr (.seImm 0xA 0x5C) ∧ decode 0x4A5C = .instr (.sneImm 0xA 0x5C) := by
  decide
theorem test_decode_family_5_9 : decode 0x5AB0 = .instr (.seReg 0xA 0xB) ∧ decode 0x9AB0 = .instr (.sneReg 0xA 0xB) := by
  decide
theorem test_decode_family_6_7 : decode 0x6A42 = .instr (.ldImm 0xA 0x42) ∧ decode 0x7A42 = .instr (.addImm 0xA 0x42) := by
  decide
theorem test_decode_family_8_low : decode 0x8AB0 = .instr (.ldReg 0xA 0xB) ∧ decode 0x8AB1 = .instr (.or 0xA 0xB) ∧
    decode 0x8AB2 = .instr (.and 0xA 0xB) ∧ decode 0x8AB3 = .instr (.xor 0xA 0xB) ∧
    decode 0x8AB4 = .instr (.addReg 0xA 0xB) := by decide
theorem test_decode_family_8_high : decode 0x8AB5 = .instr (.sub 0xA 0xB) ∧ decode 0x8AB6 = .instr (.shr 0xA 0xB) ∧
    decode 0x8AB7 = .instr (.subn 0xA 0xB) ∧ decode 0x8ABE = .instr (.shl 0xA 0xB) := by decide
theorem test_decode_family_A_B : decode 0xA123 = .instr (.ldI 0x123) ∧ decode 0xB123 = .instr (.jpV0 0x123) := by decide
theorem test_decode_family_C_D : decode 0xCA5C = .instr (.rnd 0xA 0x5C) ∧ decode 0xDAB5 = .instr (.drw 0xA 0xB 5) := by
  decide
theorem test_decode_family_E : decode 0xE39E = .instr (.skp 3) ∧ decode 0xE3A1 = .instr (.sknp 3) := by decide
theorem test_decode_family_F_low : decode 0xF307 = .instr (.ldVxDt 3) ∧ decode 0xF30A = .instr (.ldVxK 3) ∧
    decode 0xF315 = .instr (.ldDtVx 3) ∧ decode 0xF318 = .instr (.ldStVx 3) ∧ decode 0xF31E = .instr (.addIVx 3) := by decide
theorem test_decode_family_F_high : decode 0xF329 = .instr (.ldFVx 3) ∧ decode 0xF333 = .instr (.ldBVx 3) ∧
    decode 0xF355 = .instr (.ldMemVx 3) ∧ decode 0xF365 = .instr (.ldVxMem 3) := by decide
/-- Words of the Unknown space (30_encoding.md R90; V2-V6), an all-zero and an all-one word among them. -/
theorem test_decode_unknown : ([0x0000, 0x0123, 0x00E1, 0x5231, 0x8008, 0x800F, 0x9001, 0xE0A2, 0xF0FF, 0xFFFF] : List Word).all
    (fun op => decode op == .unknown op) = true := by decide
/-- Big-endian (20_memory.md R56): the byte at the lower address is the high one. -/
theorem test_decodeBytes : decodeBytes [0x12, 0x04, 0xFF] = .ok (.jp 0x204, [0xFF]) := by rfl
theorem test_decodeBytes_rejects : decodeBytes [0x80, 0x08] = .error (.unknownOpcode 0x8008) ∧
    decodeBytes [0x12] = .error .tooFewBytes ∧ decodeBytes [] = .error .tooFewBytes := by refine ⟨?_, ?_, ?_⟩ <;> rfl
theorem test_encodeBytes : encodeBytes (.drw 0xA 0xB 5) = [0xDA, 0xB5] := by decide
theorem test_decodeTableWord : decodeTableWord 16 0xD125 = some (.drw 1 2 5) ∧ decodeTableWord 16 0x8008 = none := by decide

/-- The assembly of R93, on lines of the programs P1 to P4. -/
theorem test_assembly : (Instr.ldImm 1 0x05).assembly = "LD V1, 0x05" ∧ (Instr.jp 0x20C).assembly = "JP 0x20C" ∧
    (Instr.drw 1 2 5).assembly = "DRW V1, V2, 5" ∧ (Instr.shr 0 1).assembly = "SHR V0, V1" ∧
    (Instr.shr 0 0).assembly = "SHR V0" := by decide +kernel

/-! ## One step -/

/-- V[k] <- b for each pair. -/
def regs (l : List (Nibble × Byte)) (s : State) : State := l.foldl (fun s p => s.setV p.1 p.2) s

/-- Reset with some registers set. -/
def withRegs (l : List (Nibble × Byte)) : State := regs l State.reset

/-- Perform one CYCLE, with random input 0xA5, on the word `op` placed at PC. -/
def run (op : Nat) (s : State) : State :=
  match perform (.cycle 0xA5) (s.withFetchWord 16 op) with
  | .next t => t
  | _ => s

/-- Perform one command. -/
def cmd (c : Command) (s : State) : State :=
  match perform c s with
  | .next t => t
  | _ => s

/-- Perform one step. -/
def stepped (s : State) : State :=
  match step s with
  | .next t => t
  | _ => s

/-- Reset with another VF_ORDER and some registers set. -/
def ordered (o : VfOrder) (l : List (Nibble × Byte)) : State :=
  regs l { State.reset with cfg := { standardConfig with vfOrder := o } }

/-- The fault registers and PC after a fault. -/
def faultOf (s : State) : Bool × Byte × Word × Word × Word := (s.halted, s.faultCode, s.faultPc, s.faultOp, s.pc)

/-- Reset with I = a. -/
def withI (a : Word) (l : List (Nibble × Byte)) : State := (withRegs l).setI a

/-! ### The cycle and control transfer (V1-V21) -/

/-- V1 and R109: CYCLE after reset with no LOAD. -/
theorem test_cycle_after_reset : faultOf (cmd (.cycle 0) State.reset) = (true, 0x04, 0x200, 0x0000, 0x200) := by decide
/-- V2: the response carries the record. -/
theorem test_unknown_word : (run 0x8008 State.reset).resp = .fault 0x04 0x200 0x8008 := by decide
/-- V7. -/
theorem test_fetch_past_the_end : faultOf (cmd (.cycle 0) (State.reset.setPc 0xFFF)) = (true, 0x01, 0xFFF, 0x0000, 0xFFF) := by
  decide
/-- V9: an odd PC. -/
theorem test_fetch_at_odd_pc : let t := run 0x6042 (State.reset.setPc 0x201); t.getV 0 = 0x42 ∧ t.pc = 0x203 := by decide
/-- V8: the self-jump at the last word of memory. -/
theorem test_jp_to_itself : (run 0x1FFE (State.reset.setPc 0xFFE)).pc = 0xFFE := by decide
/-- V13. -/
theorem test_jp : (run 0x1FFF State.reset).pc = 0xFFF := by decide
/-- V15: the last free slot. -/
theorem test_call : let t := run 0x2300 { State.reset.setPc 0x204 with sp := 15 }
    t.stack[15] = 0x206 ∧ t.sp = 16 ∧ t.pc = 0x300 := by decide
/-- V16. -/
theorem test_call_overflows : let t := run 0x2300 { State.reset with sp := 16 }
    faultOf t = (true, 0x02, 0x200, 0x2300, 0x200) ∧ t.sp = 16 := by decide
/-- V17: the popped slot keeps its value. -/
theorem test_ret : let t := run 0x00EE { State.reset.setPc 0x20E with sp := 1, stack := State.reset.stack.set 0 0x206 }
    t.sp = 0 ∧ t.pc = 0x206 ∧ t.stack[0] = 0x206 := by decide
/-- V18. -/
theorem test_ret_underflows : faultOf (run 0x00EE State.reset) = (true, 0x03, 0x200, 0x00EE, 0x200) := by decide
/-- V20: the sum is not masked to 12 bits. -/
theorem test_jpV0 : (run 0xBFFF (withRegs [(0, 0xFF)])).pc = 0x10FE := by decide
/-- V21: the offset is V0, never V1. -/
theorem test_jpV0_takes_V0 : (run 0xB100 (withRegs [(1, 0x50)])).pc = 0x100 := by decide

/-! ### Skips (V22-V30) -/

/-- V22, V23. -/
theorem test_seImm : (run 0x3142 ((withRegs [(1, 0x42)]).setPc 0x208)).pc = 0x20C ∧
    (run 0x3143 ((withRegs [(1, 0x42)]).setPc 0x208)).pc = 0x20A := by decide
/-- V30: a skip past the end of memory. -/
theorem test_seImm_at_the_end : (run 0x3000 (State.reset.setPc 0xFFE)).pc = 0x1002 := by decide
/-- V24, V25. -/
theorem test_sneImm : (run 0x4143 ((withRegs [(1, 0x42)]).setPc 0x208)).pc = 0x20C ∧
    (run 0x4142 ((withRegs [(1, 0x42)]).setPc 0x208)).pc = 0x20A := by decide
/-- V26, V27. -/
theorem test_seReg : (run 0x5230 (withRegs [(2, 7), (3, 7)])).pc = 0x204 ∧
    (run 0x5230 (withRegs [(2, 7), (3, 8)])).pc = 0x202 := by decide
/-- V28, V29. -/
theorem test_sneReg : (run 0x9230 (withRegs [(2, 7), (3, 8)])).pc = 0x204 ∧ (run 0x9220 (withRegs [(2, 7)])).pc = 0x202 := by
  decide

/-! ### Registers and the ALU (S3, S4, V31-V58) -/

/-- V31. -/
theorem test_ldImm : (run 0x6A42 State.reset).getV 0xA = 0x42 := by decide
/-- S3: wraparound, VF unchanged. -/
theorem test_addImm : let t := run 0x7002 (withRegs [(0, 0xFF), (0xF, 0x5A)]); t.getV 0 = 0x01 ∧ t.getV 0xF = 0x5A := by decide
/-- V50: VF as the named destination. -/
theorem test_addImm_to_VF : (run 0x7FFF (withRegs [(0xF, 0x01)])).getV 0xF = 0x00 := by decide
/-- V33. -/
theorem test_ldReg : (run 0x8010 (withRegs [(1, 0x42)])).getV 0 = 0x42 := by decide
/-- V34. -/
theorem test_or : let t := run 0x8011 (withRegs [(0, 0x0F), (1, 0xF0), (0xF, 0x77)])
    t.getV 0 = 0xFF ∧ t.getV 0xF = 0x77 := by decide
/-- V35. -/
theorem test_and : (run 0x8012 (withRegs [(0, 0x3C), (1, 0x0F)])).getV 0 = 0x0C := by decide
/-- V36. -/
theorem test_xor : (run 0x8013 (withRegs [(0, 0xFF), (1, 0x0F)])).getV 0 = 0xF0 := by decide
/-- S4, V38. -/
theorem test_addReg : let t := run 0x8014 (withRegs [(0, 0xF0), (1, 0x20)])
    t.getV 0 = 0x10 ∧ t.getV 0xF = 1 ∧ (run 0x8014 (withRegs [(0, 0x80), (1, 0x80)])).getV 0xF = 1 := by decide
/-- V40, V41: equal operands do not borrow. -/
theorem test_sub : (run 0x8015 (withRegs [(0, 3), (1, 5)])).getV 0 = 0xFE ∧ (run 0x8015 (withRegs [(0, 3), (1, 5)])).getV 0xF = 0 ∧
    (run 0x8005 (withRegs [(0, 7)])).getV 0xF = 1 := by decide
/-- V43: Y is ignored. -/
theorem test_shr : let t := run 0x8016 (withRegs [(0, 4), (1, 0xFF)]); t.getV 0 = 2 ∧ t.getV 0xF = 0 := by decide
/-- V44. -/
theorem test_subn : let t := run 0x8017 (withRegs [(0, 3), (1, 5)]); t.getV 0 = 2 ∧ t.getV 0xF = 1 := by decide
/-- V46. -/
theorem test_shl : let t := run 0x800E (withRegs [(0, 0x81)]); t.getV 0 = 2 ∧ t.getV 0xF = 1 := by decide
/-- V51. -/
theorem test_addReg_orders : (run 0x8F14 (ordered .flagLast [(0xF, 0xF0), (1, 0x20)])).getV 0xF = 0x01 ∧
    (run 0x8F14 (ordered .resultLast [(0xF, 0xF0), (1, 0x20)])).getV 0xF = 0x10 ∧
    (run 0x8F14 (ordered .flagFirstSeq [(0xF, 0xF0), (1, 0x20)])).getV 0xF = 0x21 := by decide
/-- V52. -/
theorem test_sub_orders : (run 0x8F15 (ordered .flagLast [(0xF, 5), (1, 7)])).getV 0xF = 0x00 ∧
    (run 0x8F15 (ordered .resultLast [(0xF, 5), (1, 7)])).getV 0xF = 0xFE ∧
    (run 0x8F15 (ordered .flagFirstSeq [(0xF, 5), (1, 7)])).getV 0xF = 0xF9 := by decide
/-- V53. -/
theorem test_shr_orders : (run 0x8F06 (ordered .flagLast [(0xF, 5)])).getV 0xF = 0x01 ∧
    (run 0x8F06 (ordered .resultLast [(0xF, 5)])).getV 0xF = 0x02 ∧
    (run 0x8F06 (ordered .flagFirstSeq [(0xF, 5)])).getV 0xF = 0x00 := by decide
/-- V58, where VF is the source. -/
theorem test_subn_orders : (run 0x80F7 (ordered .flagLast [(0, 5), (0xF, 3)])).getV 0 = 0xFE ∧
    (run 0x80F7 (ordered .resultLast [(0, 5), (0xF, 3)])).getV 0 = 0xFE ∧
    (run 0x80F7 (ordered .flagFirstSeq [(0, 5), (0xF, 3)])).getV 0 = 0xFB := by decide
/-- V55. -/
theorem test_shl_orders : (run 0x8F0E (ordered .flagLast [(0xF, 0x81)])).getV 0xF = 0x01 ∧
    (run 0x8F0E (ordered .resultLast [(0xF, 0x81)])).getV 0xF = 0x02 ∧
    (run 0x8F0E (ordered .flagFirstSeq [(0xF, 0x81)])).getV 0xF = 0x02 := by decide
/-- V48, V49: the random input is 0xA5. -/
theorem test_rnd : (run 0xC30F State.reset).getV 3 = 0x05 ∧ (run 0xC300 State.reset).getV 3 = 0x00 := by decide

/-! ### Index register and memory (V59-V76) -/

/-- V59. -/
theorem test_ldI : (run 0xA300 State.reset).iReg = 0x300 := by decide
/-- V61, V62. -/
theorem test_addIVx : (run 0xF01E (withI 0xFFF [(0, 1)])).iReg = 0x1000 ∧ (run 0xF01E (withI 0xFFF [(0, 1)])).getV 0xF = 0 ∧
    (run 0xF01E (withI 0xFFFF [(0, 2)])).iReg = 0x0001 := by decide
/-- V63, V64. -/
theorem test_ldFVx : (run 0xF029 (withRegs [(0, 0x0A)])).iReg = 0x032 ∧ (run 0xF029 (withRegs [(0, 0x0F)])).iReg = 0x04B := by
  decide
/-- V65. -/
theorem test_ldFVx_faults : let t := run 0xF029 (withI 0x123 [(0, 0x10)])
    faultOf t = (true, 0x07, 0x200, 0xF029, 0x200) ∧ t.iReg = 0x123 := by decide
/-- V66. -/
theorem test_ldBVx : let t := run 0xF033 (withI 0x300 [(0, 0xFE)])
    t.byteAt 0x300 = 2 ∧ t.byteAt 0x301 = 5 ∧ t.byteAt 0x302 = 4 := by decide
/-- V67, V68: memory is unchanged. -/
theorem test_ldBVx_faults : (run 0xF033 (withI 0xFFE [(0, 5)])).resp = .fault 0x05 0x200 0xF033 ∧
    (run 0xF033 (withI 0xFFE [(0, 255)])).byteAt 0xFFF = 0 ∧
    (run 0xF033 (withI 0x1FF [(0, 5)])).resp = .fault 0x06 0x200 0xF033 := by decide
/-- V69, V70: with and without I_ADVANCE. -/
theorem test_ldMemVx : let s := withI 0x300 [(0, 0x11), (1, 0x22)]
    let t := run 0xF155 s
    t.byteAt 0x300 = 0x11 ∧ t.byteAt 0x301 = 0x22 ∧ t.iReg = 0x300 ∧
      (run 0xF155 { s with cfg := { s.cfg with iAdvance := true } }).iReg = 0x302 := by decide
/-- V72, V73. -/
theorem test_ldMemVx_faults : (run 0xF255 (withI 0xFFE [(0, 9)])).resp = .fault 0x05 0x200 0xF255 ∧
    (run 0xF255 (withI 0xFFE [(0, 9)])).byteAt 0xFFE = 0 ∧ (run 0xF055 (withI 0x1FF [])).resp = .fault 0x06 0x200 0xF055 := by
  decide
/-- V74: the first font byte. -/
theorem test_ldVxMem : (run 0xF065 State.reset).getV 0 = 0xF0 := by decide
/-- V75, V76. -/
theorem test_ldVxMem_faults : (run 0xFF65 (withI 0xFF0 [])).resp = .ok ∧ (run 0xFF65 (withI 0xFF1 [(3, 9)])).resp =
    .fault 0x05 0x200 0xFF65 ∧ (run 0xFF65 (withI 0xFF1 [(3, 9)])).getV 3 = 9 := by decide
/-- The font table of 10_state.md R33: the first and the last byte, and the zero byte after it. -/
theorem test_font : State.reset.byteAt 0x000 = 0xF0 ∧ State.reset.byteAt 0x032 = 0xF0 ∧ State.reset.byteAt 0x033 = 0x90 ∧
    State.reset.byteAt 0x04F = 0x80 ∧ State.reset.byteAt 0x050 = 0x00 := by decide
/-- A store of what an unlisted address reads as removes the entry. -/
theorem test_memory_canonical : ((State.reset.store 0x300 [1]).store 0x300 [0]).mem = [] := by decide

/-! ### Display (S5, S6, V77-V84) -/

/-- S5, V77. -/
theorem test_cls : let t := run 0x00E0 { withRegs [(0xF, 0x33)] with display := Vector.replicate 32 0xFF }
    t.display = Vector.replicate 32 0 ∧ t.getV 0xF = 0x33 := by decide
/-- S6: eight cells, and a second draw clears them and collides. -/
theorem test_drw : let t := run 0xD011 ((withI 0x300 []).store 0x300 [0xFF])
    t.display[0] = 0xFF ∧ t.getV 0xF = 0 ∧ (run 0xD011 t).display[0] = 0 ∧ (run 0xD011 t).getV 0xF = 1 := by decide
/-- V82, V83: WRAP and CLIP at the right and the bottom edge; bit x of a row is column x. -/
theorem test_drw_edges : let s := (withI 0x300 [(0, 0x3C), (1, 0x1F)]).store 0x300 [0xFF, 0x80]
    let c := { s with cfg := { s.cfg with drawEdge := .clip } }
    (run 0xD012 s).display[31] = 0xF00000000000000F ∧ (run 0xD012 s).display[0] = 0x1000000000000000 ∧
      (run 0xD012 c).display[31] = 0xF000000000000000 ∧ (run 0xD012 c).display[0] = 0 := by decide
/-- V84: VF's old value is the coordinate. -/
theorem test_drw_at_VF : let t := run 0xDF11 ((withI 0x300 [(0xF, 2)]).store 0x300 [0x80])
    t.cell 2 0 = true ∧ t.getV 0xF = 0 := by decide
/-- V78, V79, V80. -/
theorem test_drw_range : (run 0xD010 (withI 0x5000 [(0xF, 1)])).getV 0xF = 0 ∧ (run 0xD010 (withI 0x5000 [])).resp = .ok ∧
    (run 0xD011 (withI 0xFFF [])).resp = .ok ∧ (run 0xD012 (withI 0xFFF [])).resp = .fault 0x05 0x200 0xD012 := by decide

/-! ### Keys, timers and host commands (S9, S10, V85-V100) -/

/-- Reset with key k pressed. -/
def withKey (k : Byte) (s : State) : State := s.setKeyLevel k true

/-- V85, V88. -/
theorem test_skp : (run 0xE79E (withKey 0xB ((withRegs [(7, 0x0B)]).setPc 0x20A))).pc = 0x20E ∧
    (run 0xE09E (withRegs [(0, 0x10)])).resp = .fault 0x07 0x200 0xE09E := by decide
/-- V86, V87. -/
theorem test_sknp : (run 0xE7A1 (withKey 0xB ((withRegs [(7, 0x0B)]).setPc 0x20A))).pc = 0x20C ∧
    (run 0xE7A1 ((withRegs [(7, 0x0B)]).setPc 0x20A)).pc = 0x20E := by decide
/-- V89. -/
theorem test_ldVxDt : (run 0xF407 { State.reset with dt := 0x12 }).getV 4 = 0x12 := by decide
/-- V90. -/
theorem test_ldDtVx : (run 0xF315 (withRegs [(3, 0x14)])).dt = 0x14 := by decide
/-- V90. -/
theorem test_ldStVx : let t := run 0xF318 (withRegs [(3, 0x14)]); t.st = 0x14 ∧ t.soundActive = true := by decide
/-- V92: a held key does not qualify. -/
theorem test_ldVxK : let t := run 0xF50A (withKey 3 State.reset)
    t.awaiting = true ∧ t.waitReg = 5 ∧ t.pc = 0x200 ∧ (cmd (.setKey 3 true) t).latchValid = false := by decide

/-- A core that waits in F50A, with no key held. -/
def waiting : State := run 0xF50A State.reset

/-- V93: the first press wins, and the next CYCLE completes. -/
theorem test_first_press_wins : let t := cmd (.cycle 0) (cmd (.setKey 7 true) (cmd (.setKey 3 true) waiting))
    t.getV 5 = 3 ∧ t.pc = 0x202 ∧ t.awaiting = false := by decide
/-- V94: the latch survives the release. -/
theorem test_latch_survives_release : (cmd (.cycle 0) (cmd (.setKey 4 false) (cmd (.setKey 4 true) waiting))).getV 5 = 4 := by
  decide
/-- V95. -/
theorem test_setKey_rejected : cmd (.setKey 16 true) State.reset =
    { State.reset with resp := .rejected .invalidKeyIndex } := by decide
/-- V91, S10. -/
theorem test_tick : let t := cmd .tick { State.reset with dt := 1, st := 0 }; t.dt = 0 ∧ t.st = 0 ∧ (cmd .tick t).dt = 0 := by
  decide

/-- A core halted by the Unknown word 8008 (P6). -/
def stopped : State := run 0x8008 State.reset

/-- V10: CYCLE and TICK return the recorded fault and change no state. -/
theorem test_halted_core : (cmd (.cycle 0xA5) stopped) = stopped ∧ cmd .tick stopped = stopped := by decide
/-- V96. -/
theorem test_halted_core_takes_keys : let t := cmd (.setKey 2 true) stopped
    t.resp = .ok ∧ t.keyAt 2 = true ∧ t.halted = true := by decide
/-- V100: LOAD leaves the halted state and keeps K. -/
theorem test_load : let t := cmd (.load [0x12, 0x00]) (withKey 5 stopped)
    t.halted = false ∧ t.faultCode = 0 ∧ t.keyAt 5 = true ∧ t.fetch = some 0x1200 ∧ t.resp = .ok := by decide
/-- V98: an image one byte too long is rejected. -/
theorem test_load_rejected : (load (List.replicate 3585 0xAB) stopped).2 = .rejected .loadError ∧
    (load (List.replicate 3584 0xAB) stopped).2 = .ok := by decide +kernel
/-- The host queue: the step performs the oldest command (log entry 7). -/
theorem test_step_takes_the_oldest : let t := stepped { State.reset with pending := [.setKey 2 true, .tick] }
    t.pending = [.tick] ∧ t.keyAt 2 = true := by decide
/-- `withFetchWord`: the very next step runs the word (log entry 10). -/
theorem test_withFetchWord : let t := stepped (State.reset.withFetchWord 16 0x6A42)
    t.getV 0xA = 0x42 ∧ t.pc = 0x202 := by decide
/-- The ports of 47_interface.md R241. -/
theorem test_ports : (InPorts.command ⟨2, 0, 5, true, 0, []⟩) = .setKey 5 true ∧
    (InPorts.command ⟨3, 0, 0, false, 2, [0x12, 0x00, 0xFF]⟩) = .load [0x12, 0x00] ∧
    (Response.port (.fault 1 2 3), Response.portCode (.rejected .loadError)) = ((1 : BitVec 2), (0x10 : Byte)) := by decide

/-! ## Witnesses: states that meet the hypotheses of each obligation -/

/-- Reset with a word stored at the last address it can be fetched from. -/
def atEnd (op : Nat) : State := (State.reset.setPc 0xFFE).withFetchWord 16 op

theorem witness_StepRunsTheDecodedInstruction : let s := atEnd 0x6A42
    s.halted = false ∧ s.awaiting = false ∧ s.pc.toNat ≤ 0xFFE ∧
    decode (joinBytes (s.byteAt s.pc.toNat) (s.byteAt (s.pc.toNat + 1))) = .instr (.ldImm 0xA 0x42) ∧ s.pending = [] := by decide
theorem witness_StepRunsTheDecodedInstruction_pending : let s := { atEnd 0x6A42 with pending := [.cycle 0xA5] }
    s.halted = false ∧ s.awaiting = false ∧ s.pc.toNat ≤ 0xFFE ∧
    decode (joinBytes (s.byteAt s.pc.toNat) (s.byteAt (s.pc.toNat + 1))) = .instr (.ldImm 0xA 0x42) ∧
    s.pending = .cycle 0xA5 :: [] := by decide
theorem witness_FetchIsBigEndianAndBounded : let s := State.reset.setPc 0xFFE
    s.halted = false ∧ s.awaiting = false ∧ s.pc.toNat ≤ 0xFFE := by decide
theorem witness_FetchIsBigEndianAndBounded_beyond : let s := State.reset.setPc 0xFFF
    s.halted = false ∧ s.awaiting = false ∧ 0xFFE < s.pc.toNat := by decide
theorem witness_UnknownWordFaults : let s := atEnd 0x8008
    s.halted = false ∧ s.awaiting = false ∧ s.fetch = some 0x8008 ∧ decode 0x8008 = .unknown 0x8008 := by decide
theorem witness_WaitStepCompletesOrChangesNothing :
    (waiting.halted = false ∧ waiting.awaiting = true ∧ waiting.latchValid = false) ∧
    let s := cmd (.setKey 0xF true) waiting
    s.halted = false ∧ s.awaiting = true ∧ s.latchValid = true := by decide

theorem not_runs_of_halted {s : State} (h : s.halted = true) (i : Instr) : ¬s.Runs i := fun hr => by
  rw [hr.1] at h; cases h

theorem runs_of {s : State} {i : Instr} {op : Word} (hh : s.halted = false) (ha : s.awaiting = false) (hf : s.fetch = some op)
    (hd : decode op = .instr i) : s.Runs i := ⟨hh, ha, op, hf, hd⟩

theorem not_runs_of {s : State} {i j : Instr} {op : Word} (hf : s.fetch = some op) (hd : decode op = .instr j) (h : i ≠ j) :
    ¬s.Runs i := fun ⟨_, _, w, hw, hi⟩ => by
  rw [hf] at hw; cases hw; rw [hd] at hi; cases hi; exact h rfl

theorem witness_RandomInputIsReadOnlyByRnd : let s := atEnd 0x6A42
    (¬∃ x nn, s.Runs (.rnd x nn)) ∧ perform (.cycle 0xA5) s = .next (run 0x6A42 (State.reset.setPc 0xFFE)) :=
  ⟨fun ⟨_, _, h⟩ => not_runs_of (op := 0x6A42) (j := .ldImm 0xA 0x42) (by decide) (by decide) (by simp) h, rfl⟩

theorem witness_CycleKeepsTimersKeysAndDisplay :
    (let s := (withRegs [(3, 9)]).withFetchWord 16 0xF315
     perform (.cycle 0xA5) s = .next (run 0xF315 s) ∧ (run 0xF315 s).dt ≠ s.dt) ∧
    (let s := (withRegs [(3, 9)]).withFetchWord 16 0xF318
     perform (.cycle 0xA5) s = .next (run 0xF318 s) ∧ (run 0xF318 s).st ≠ s.st) ∧
    (let s := State.reset.withFetchWord 16 0xD011
     perform (.cycle 0xA5) s = .next (run 0xD011 s) ∧ (run 0xD011 s).display ≠ s.display) := by
  refine ⟨⟨?_, ?_⟩, ⟨?_, ?_⟩, ⟨?_, ?_⟩⟩ <;> first | rfl | decide
theorem witness_PcIsWrittenInFourWays : ∃ t, State.reset.halted = false ∧ exec (.seImm 0 0) State.reset = .next t ∧
    t.halted = false := ⟨_, rfl, rfl, rfl⟩
theorem witness_FaultsArePrecise : ∃ t, State.reset.halted = false ∧ perform (.cycle 0) State.reset = .next t ∧ t.halted = true :=
  ⟨cmd (.cycle 0) State.reset, rfl, rfl, rfl⟩
theorem witness_OnlyTheListedInstructionsFault : State.reset.halted = false ∧
    (∃ t, exec .cls State.reset = .next t ∧ t.halted = false) ∧ (∃ t, exec .ret State.reset = .next t ∧ t.halted = true) ∧
    (∃ t, exec (.drw 0 0 2) (withI 0xFFF []) = .next t ∧ t.halted = true) ∧
    (∃ t, exec (.ldBVx 0) (withI 0x1FF []) = .next t ∧ t.halted = true) ∧
    ∃ t, exec (.skp 0) (withRegs [(0, 0x10)]) = .next t ∧ t.halted = true := by
  refine ⟨rfl, ⟨_, rfl, rfl⟩, ⟨_, rfl, rfl⟩, ⟨_, rfl, rfl⟩, ⟨_, rfl, rfl⟩, ⟨_, rfl, rfl⟩⟩
/-- The boundaries of both checks: the last byte of memory, the first byte past it, the first byte above the reserved region, the
last byte in it. -/
theorem witness_RangeChecksNameTheLowestBadAddress : 1 ≤ 3 ∧ checkRead 0xFFD 3 = none ∧
    checkRead 0xFFE 3 = some (.memoryOutOfBounds 0x1000) ∧ checkRead 0x1234 3 = some (.memoryOutOfBounds 0x1234) ∧
    checkWrite 0x200 3 = none ∧ checkWrite 0x1FF 3 = some (.reservedWrite 0x1FF) ∧
    checkWrite 0xFFE 3 = some (.memoryOutOfBounds 0x1000) := by decide
theorem witness_HaltedCoreStaysHalted : stopped.halted = true ∧ stopped.awaiting = false ∧ (15 : Byte).toNat < 16 ∧
    (List.replicate 3584 (0 : Byte)).length ≤ 3584 ∧ 3584 < (List.replicate 3585 (0 : Byte)).length := by
  simp only [List.length_replicate]; decide
theorem witness_SetKeySetsTheKeyAndLatches : 15 < (16 : Byte).toNat ∧ (15 : Byte).toNat < 16 ∧
    (true = true ∧ waiting.keys[(15 : Byte).toNat] = false ∧ waiting.awaiting = true ∧ waiting.latchValid = false) ∧
    ¬(true = true ∧ State.reset.keys[(0 : Byte).toNat] = false ∧ State.reset.awaiting = true ∧ State.reset.latchValid = false) := by
  decide
theorem witness_TickCountsBothTimersDown : State.reset.halted = false ∧ stopped.halted = true := by decide
theorem witness_LoadResetsAndCopiesTheImage : 3584 < (List.replicate 3585 (0 : Byte)).length ∧
    (List.replicate 3584 (0 : Byte)).length ≤ 3584 ∧ State.reset.cfg.wellFormed = true ∧
    Config.wellFormed { standardConfig with fontBase := 0x1B0 } = true := by
  simp only [List.length_replicate]; decide

/-! ### The whole machine -/

/-- The invariant of a running core that stores two bytes at 0x200 in an empty memory. -/
theorem inv_of_store {s : State} (hi : s.Inv) (h : s.awaiting = false) {a : Nat} {bs : List Byte} (ha : a + bs.length ≤ 4096) :
    (s.store a bs).Inv where
  cfg := hi.cfg
  mem := State.wf_store hi.mem ha
  pc := hi.pc
  stack := hi.stack
  wait := fun e => by rw [State.store_awaiting, h] at e; cases e
  latch := hi.latch
  halted := hi.halted

theorem inv_of_running {s : State} (hc : s.cfg.wellFormed = true) (hm : Memory.wf s.cfg s.mem = true)
    (hp : s.pc.toNat ≤ 0x10FE) (hs : ∀ j (h : j < 16), s.stack[j].toNat ≤ 0x1000) (ha : s.awaiting = false)
    (hl : s.latchValid = false) : s.Inv where
  cfg := hc
  mem := hm
  pc := hp
  stack := hs
  wait := fun e => by rw [ha] at e; cases e
  latch := fun e => by rw [hl] at e; cases e
  halted := fun _ => ha

/-- A state that stores V0 and V1 over the instruction after the running F155. -/
def storing : State := (withI 0x202 [(0, 0x12), (1, 0x34)]).withFetchWord 16 0xF155

theorem inv_storing : storing.Inv := inv_of_running (by decide) (by decide) (by decide) (by decide) (by decide) (by decide)
theorem inv_reset : State.reset.Inv := inv_of_running (by decide) (by decide) (by decide) (by decide) (by decide) (by decide)

theorem witness_StepKeepsTheInvariant : ∃ s t : State, s.Inv ∧ step s = .next t :=
  ⟨storing, stepped storing, inv_storing, rfl⟩
/-- A waiting core with a latched key meets the invariant too. -/
theorem witness_StepKeepsTheInvariant_waiting : (cmd (.setKey 3 true) waiting).Inv where
  cfg := by decide
  mem := by decide
  pc := by decide
  stack := by decide
  wait := by decide
  latch := by decide
  halted := by decide
theorem witness_StepKeepsTheReservedRegion : ∃ s t : State, s.Inv ∧ s.ReservedIntact ∧ step s = .next t :=
  ⟨State.reset, stepped State.reset, inv_reset, fun _ _ => rfl, rfl⟩
theorem witness_StepKeepsParametersAndTakesOneCommand : step State.reset = .next (stepped State.reset) ∧
    (stepped State.reset).draws = 1 ∧ (stepped { State.reset with pending := [.tick] }).draws = 0 := ⟨rfl, rfl, rfl⟩
theorem witness_MemoryChangesOnlyByStoresAndLoad : ∃ (s t : State) (q : Nat), s.Inv ∧ step s = .next t ∧
    t.byteAt q ≠ s.byteAt q := ⟨storing, stepped storing, 0x202, inv_storing, rfl, by decide⟩
theorem witness_DisplayChangesOnlyByDrawingAndLoad : ∃ s t : State, step s = .next t ∧ t.display ≠ s.display :=
  ⟨State.reset.withFetchWord 16 0xD011, stepped (State.reset.withFetchWord 16 0xD011), rfl, by decide⟩
theorem witness_StackChangesOnlyByCallAndReturn : ∃ (s t : State), exec (.call 0x300) s = .next t ∧
    (t.sp ≠ s.sp ∨ t.stack ≠ s.stack) ∧ t.stack[15] ≠ s.stack[15] :=
  ⟨{ State.reset with sp := 15 }, _, rfl, by decide, by decide⟩
theorem witness_VfChangesOnlyByItsWriters : ∃ (s t : State), exec (.addReg 0 1) s = .next t ∧ t.getV vf ≠ s.getV vf :=
  ⟨withRegs [(0, 0xFF), (1, 0x01)], _, rfl, by decide⟩

/-! ### Instructions -/

theorem witness_CallPushesTheReturnAddress : ({ State.reset with sp := 15 } : State).sp.val < 16 ∧
    ({ State.reset with sp := 16 } : State).sp.val = 16 := by decide
theorem witness_ReturnPopsTheReturnAddress : 0 < ({ State.reset with sp := 1 } : State).sp.val ∧ State.reset.sp.val = 0 := by
  decide
theorem witness_CallThenReturnComesBack : ({ State.reset with sp := 15 } : State).sp.val < 16 := by decide
theorem witness_KeySkipsTestTheKeyLevel : ((withRegs [(7, 0x0F)]).getV 7).toNat < 16 ∧
    0x0F < ((withRegs [(7, 0x10)]).getV 7).toNat := by decide
/-- The five premises, each at the boundary of its flag. -/
theorem witness_FlagInstructionsInEveryOrder :
    (if 0xFF < ((withRegs [(0, 0xFF), (1, 1)]).getV 0).toNat + ((withRegs [(0, 0xFF), (1, 1)]).getV 1).toNat then (1 : Byte)
      else 0) = 1 ∧
    (if ((withRegs [(0, 7), (1, 7)]).getV 1).toNat ≤ ((withRegs [(0, 7), (1, 7)]).getV 0).toNat then (1 : Byte) else 0) = 1 ∧
    (if ((withRegs [(0, 1)]).getV 0).toNat % 2 = 1 then (1 : Byte) else 0) = 1 ∧
    (if ((withRegs [(0, 8), (1, 7)]).getV 0).toNat ≤ ((withRegs [(0, 8), (1, 7)]).getV 1).toNat then (1 : Byte) else 0) = 0 ∧
    (if 128 ≤ ((withRegs [(0, 128)]).getV 0).toNat then (1 : Byte) else 0) = 1 := by decide
theorem witness_FlagTableAwayFromVf : (0xE : Nibble) ≠ vf ∧ (0x0 : Nibble) ≠ vf := by decide
theorem witness_RandomByteIsMasked : (State.reset.withFetchWord 16 0xC30F).Runs (.rnd 3 0x0F) ∧ 7 < 8 ∧
    (0x0F : Byte).getLsbD 7 = false := ⟨runs_of (op := 0xC30F) (by decide) (by decide) (by decide) (by decide), by decide, by decide⟩
theorem witness_GlyphPointerIsFontBasePlusFiveV : State.reset.cfg.wellFormed = true ∧
    ((withRegs [(0, 0x0F)]).getV 0).toNat ≤ 0x0F ∧ 0x0F < ((withRegs [(0, 0x10)]).getV 0).toNat := by decide
theorem witness_BcdStoresThreeDigits : Memory.wf State.reset.cfg State.reset.mem = true ∧
    ((withI 0xFFD []).iReg.toNat + 2 ≤ 0xFFF ∧ 0x200 ≤ (withI 0x200 []).iReg.toNat) ∧
    0xFFF < (withI 0xFFE []).iReg.toNat + 2 ∧ (withI 0x1FF []).iReg.toNat < 0x200 := by decide
theorem witness_StoreWritesRegistersUpToX : Memory.wf State.reset.cfg State.reset.mem = true ∧
    ((withI 0xFF0 []).iReg.toNat + (0xF : Nibble).toNat ≤ 0xFFF ∧ 0x200 ≤ (withI 0xFF0 []).iReg.toNat) ∧
    0xFFF < (withI 0xFF1 []).iReg.toNat + (0xF : Nibble).toNat ∧ (withI 0x1FF []).iReg.toNat < 0x200 := by decide
theorem witness_LoadReadsRegistersUpToX : (withI 0xFF0 []).iReg.toNat + (0xF : Nibble).toNat ≤ 0xFFF ∧
    0xFFF < (withI 0xFF1 []).iReg.toNat + (0xF : Nibble).toNat := by decide
theorem witness_StoredWordIsFetchedNext : storing.Inv ∧ storing.iReg.toNat + (1 : Nibble).toNat ≤ 0xFFF ∧
    0x200 ≤ storing.iReg.toNat ∧ (0 : Nibble).toNat < (1 : Nibble).toNat ∧
    storing.pc.toNat + 2 = storing.iReg.toNat + (0 : Nibble).toNat ∧ ∃ t, exec (.ldMemVx 1) storing = .next t :=
  ⟨inv_storing, by decide, by decide, by decide, by decide, _, rfl⟩
theorem witness_DrawTogglesTheSpriteAndSetsCollision :
    ((0 : Nibble).toNat = 0 ∨ (withI 0x5000 []).iReg.toNat + (0 : Nibble).toNat - 1 ≤ 0xFFF) ∧
    ((15 : Nibble).toNat = 0 ∨ (withI 0xFF1 []).iReg.toNat + (15 : Nibble).toNat - 1 ≤ 0xFFF) ∧
    ((15 : Nibble).toNat ≠ 0 ∧ 0xFFF < (withI 0xFF2 []).iReg.toNat + (15 : Nibble).toNat - 1) := by decide
theorem witness_DrawingTwiceRestoresTheDisplay : (0 : Nibble) ≠ vf ∧ (1 : Nibble) ≠ vf ∧
    ((15 : Nibble).toNat = 0 ∨ (withI 0xFF1 []).iReg.toNat + (15 : Nibble).toNat - 1 ≤ 0xFFF) ∧
    ∀ px py, px < 64 → py < 32 → (withI 0xFF1 []).cell px py = false :=
  ⟨by decide, by decide, by decide, fun px py _ hy => by
    simp [withI, withRegs, regs, State.cell, Display.cell, State.reset, hy]⟩
theorem witness_WaitForKeyStartsAndCompletes : State.reset.halted = false ∧ (15 : Byte).toNat < 16 ∧
    State.reset.keys[(15 : Byte).toNat] = false := by decide
theorem witness_OutputPortsShowTheState : (63 : Nat) < 64 ∧ (31 : Nat) < 32 := by decide
theorem witness_EndedRunStaysEnded : stopped.RunEnded ∧ (atEnd 0x1FFE).RunEnded :=
  ⟨.inl (by decide), .inr ⟨by decide, by decide, by decide⟩⟩

end Sys2Proof.Machine.Tests
end

section
/-! PROOFS. What no command touches: the parameters, the queue and the draw counter (log entries 1, 6 and 7). The command at hand
is taken off the queue before it is performed (`State.nextCommand`), so that performing it keeps all three. -/

namespace Sys2Proof.Machine

/-- The parameters, the queue of pending commands and the draw counter are as before. -/
structure ParametersAndQueueKept (s t : State) : Prop where
  cfg : t.cfg = s.cfg
  pending : t.pending = s.pending
  draws : t.draws = s.draws

theorem HostSideKept.parametersAndQueueKept {s t : State} (h : HostSideKept s t) : ParametersAndQueueKept s t :=
  ⟨h.cfg, h.pending, h.draws⟩

theorem waitStep_keepsParametersAndQueue (s : State) : ParametersAndQueueKept s s.waitStep := by
  unfold State.waitStep
  split <;> constructor <;> rfl

theorem cycle_keepsParametersAndQueue {s t : State} (h : cycle s = .next t) : ParametersAndQueueKept s t := by
  obtain ⟨-, rfl⟩ | ⟨-, -, rfl⟩ | ⟨-, -, -, rfl⟩ | ⟨op, w, -, -, -, -, rfl⟩ | ⟨op, i, -, -, -, -, hi⟩ := cycle_cases h
  · exact ⟨rfl, rfl, rfl⟩
  · exact waitStep_keepsParametersAndQueue s
  · exact ⟨rfl, rfl, rfl⟩
  · exact ⟨rfl, rfl, rfl⟩
  · exact (exec_hostSideKept hi).parametersAndQueueKept

theorem runCycle_keepsParametersAndQueue {r : Byte} {s t : State} (h : runCycle r s = .next t) :
    ParametersAndQueueKept s t := by
  obtain ⟨u, hu, rfl⟩ := runCycle_cases h
  have hk := cycle_keepsParametersAndQueue hu
  exact ⟨hk.cfg, hk.pending, hk.draws⟩

theorem tick_keepsParametersAndQueue (s : State) : ParametersAndQueueKept s (tick s).1 := by
  unfold tick
  split <;> constructor <;> rfl

theorem setKey_keepsParametersAndQueue (k : Byte) (p : Bool) (s : State) : ParametersAndQueueKept s (setKey k p s).1 := by
  rcases Nat.lt_or_ge k.toNat 16 with hk | hk
  · rw [setKey_accepted p hk]
    split <;> constructor <;> rfl
  · rw [setKey_rejected p hk]
    constructor <;> rfl

theorem load_keepsParametersAndQueue (image : List Byte) (s : State) : ParametersAndQueueKept s (load image s).1 := by
  rcases Nat.lt_or_ge 3584 image.length with hl | hl
  · rw [load_rejected hl]
    constructor <;> rfl
  · rw [load_accepted hl]
    constructor <;> simp

theorem answer_keepsParametersAndQueue {r : State × Response} {s t : State} (hr : ParametersAndQueueKept s r.1)
    (h : answer r = .next t) : ParametersAndQueueKept s t := by
  cases h
  exact ⟨hr.cfg, hr.pending, hr.draws⟩

theorem perform_keepsParametersAndQueue {c : Command} {s t : State} (h : perform c s = .next t) :
    ParametersAndQueueKept s t := by
  cases c with
  | cycle r => exact runCycle_keepsParametersAndQueue h
  | tick => exact answer_keepsParametersAndQueue (tick_keepsParametersAndQueue s) h
  | setKey k p => exact answer_keepsParametersAndQueue (setKey_keepsParametersAndQueue k p s) h
  | load image => exact answer_keepsParametersAndQueue (load_keepsParametersAndQueue image s) h

/-- Settles O25: `State.nextCommand` takes one command or one draw, and performing the command keeps what is left. -/
theorem stepKeepsParametersAndTakesOneCommand : Obligations.StepKeepsParametersAndTakesOneCommand := by
  intro s t h
  obtain ⟨hcfg, hpending, hdraws⟩ := perform_keepsParametersAndQueue h
  obtain ⟨hq, hn⟩ | ⟨c, cs, hq, hn⟩ := s.nextCommand_cases
  · simp [hcfg, hpending, hdraws, hn, hq]
  · simp [hcfg, hpending, hdraws, hn, hq]

end Sys2Proof.Machine
end

section
/-! PROOFS. What of memory, the stack and VF an instruction leaves alone (10_state.md R21, R26, R27, 20_memory.md R53), and that
the region below 0x200 stays as reset wrote it (10_state.md R34). -/

namespace Sys2Proof.Machine

/-! ## Inversion of a checked meaning, of 00EE and of 2NNN -/

/-- What holds of the fault entry and of the effect holds of whatever a checked meaning answers. -/
theorem checked_keeps {P : State → Prop} {chk : Option Cause} {op : Word} {s t u : State}
    (h : checked chk op s t = .next u) (hf : ∀ c, P (s.takeFault c op)) (ht : P t) : P u := by
  obtain ⟨c, -, rfl⟩ | ⟨-, rfl⟩ := checked_cases h
  · exact hf c
  · exact ht

theorem exec_ret_cases {s t : State} (h : exec .ret s = .next t) :
    t = s.takeFault .stackUnderflow 0x00EE ∨
    ∃ hs : 0 < s.sp.val, t = { s with sp := ⟨s.sp.val - 1, by omega⟩, pc := s.stack[s.sp.val - 1] } := by
  rcases Nat.eq_zero_or_pos s.sp.val with hs | hs
  · cases (execRet_of_zero hs).symm.trans h; exact .inl rfl
  · cases (execRet_of_pos hs).symm.trans h; exact .inr ⟨hs, rfl⟩

theorem exec_call_cases {nnn : Addr} {s t : State} (h : exec (.call nnn) s = .next t) :
    t = s.takeFault .stackOverflow (encode (.call nnn)) ∨
    ∃ hs : s.sp.val < 16, t = { s with stack := s.stack.set s.sp.val (s.pc + 2), sp := ⟨s.sp.val + 1, by omega⟩,
                                       pc := addrOperand nnn } := by
  rcases Nat.lt_or_ge s.sp.val 16 with hs | hs
  · cases (execCall_of_lt hs).symm.trans h; exact .inr ⟨hs, rfl⟩
  · cases (execCall_of_full (by omega)).symm.trans h; exact .inl rfl

/-! ## Memory -/

/-- Memory holds new bytes in a range that a CheckWrite passes (44_index_memory.md R184), and is otherwise as before. -/
def StoresWritable (s t : State) : Prop :=
  ∃ a bs, 0x200 ≤ a ∧ a + bs.length ≤ 4096 ∧ t.mem = (s.store a bs).mem

/-- A store behind its CheckWrite faults, which keeps memory, or stores inside the writable range. -/
theorem checkedStore_mem_cases {a n : Nat} {bs : List Byte} {op : Word} {s t u : State} (hn : bs.length = n)
    (h : checked (checkWrite a n) op s t = .next u) (ht : t.mem = (s.store a bs).mem) :
    u.mem = s.mem ∨ StoresWritable s u := by
  obtain ⟨c, -, rfl⟩ | ⟨hc, rfl⟩ := checked_cases h
  · exact .inl rfl
  · obtain ⟨hhigh, hlow⟩ := checkWrite_eq_none.1 hc
    exact .inr ⟨a, bs, hlow, by omega, ht⟩

/-- Memory after an instruction: as before, or, by FX33 and FX55 alone, stored into at 0x200 and above (20_memory.md R53). -/
theorem exec_mem_cases {i : Instr} {s t : State} (h : exec i s = .next t) :
    t.mem = s.mem ∨ ((∃ x, i = .ldBVx x ∨ i = .ldMemVx x) ∧ StoresWritable s t) := by
  cases i with
  | ldBVx x =>
    have hw := checkedStore_mem_cases (length_bcdDigits (s.getV x)) h rfl
    exact hw.imp_right fun hw => ⟨⟨x, .inl rfl⟩, hw⟩
  | ldMemVx x =>
    have hw := checkedStore_mem_cases (s.length_regsUpTo x) h (by simp)
    exact hw.imp_right fun hw => ⟨⟨x, .inr rfl⟩, hw⟩
  | ret => obtain rfl | ⟨_, rfl⟩ := exec_ret_cases h <;> exact .inl rfl
  | call nnn => obtain rfl | ⟨_, rfl⟩ := exec_call_cases h <;> exact .inl rfl
  | ldVxMem x => exact .inl (checked_keeps (P := fun u => u.mem = s.mem) h (fun _ => rfl) (by simp))
  | skp x | sknp x | ldFVx x | drw x y n =>
    exact .inl (checked_keeps (P := fun u => u.mem = s.mem) h (fun _ => rfl) rfl)
  | _ => cases h; exact .inl rfl

/-! ## The reserved region -/

theorem State.ReservedIntact.congr {s t : State} (hr : s.ReservedIntact) (hc : t.cfg = s.cfg) (hm : t.mem = s.mem) :
    t.ReservedIntact := fun a ha => by
  rw [State.byteAt_congr hc hm, hc]
  exact hr a ha

theorem StoresWritable.reservedIntact {s t : State} (h : StoresWritable s t) (hc : t.cfg = s.cfg)
    (hm : Memory.wf s.cfg s.mem = true) (hr : s.ReservedIntact) : t.ReservedIntact := by
  obtain ⟨a, bs, hlow, hhigh, ht⟩ := h
  refine State.ReservedIntact.congr (s := s.store a bs) (fun q hq => ?_) hc ht
  rw [State.byteAt_store hm hhigh, if_neg (by omega)]
  exact hr q hq

theorem exec_keepsReserved {i : Instr} {s t : State} (hm : Memory.wf s.cfg s.mem = true) (hr : s.ReservedIntact)
    (h : exec i s = .next t) : t.ReservedIntact := by
  have hc := (exec_hostSideKept h).cfg
  obtain he | ⟨-, hw⟩ := exec_mem_cases h
  · exact hr.congr hc he
  · exact hw.reservedIntact hc hm hr

theorem waitStep_keepsMem (s : State) : s.waitStep.mem = s.mem := by
  unfold State.waitStep
  split <;> rfl

theorem cycle_keepsReserved {s t : State} (hm : Memory.wf s.cfg s.mem = true) (hr : s.ReservedIntact)
    (h : cycle s = .next t) : t.ReservedIntact := by
  obtain ⟨-, rfl⟩ | ⟨-, -, rfl⟩ | ⟨-, -, -, rfl⟩ | ⟨op, w, -, -, -, -, rfl⟩ | ⟨op, i, -, -, -, -, hi⟩ := cycle_cases h
  · exact hr
  · exact hr.congr (waitStep_keepsParametersAndQueue s).cfg (waitStep_keepsMem s)
  · exact hr.congr rfl rfl
  · exact hr.congr rfl rfl
  · exact exec_keepsReserved hm hr hi

theorem tick_keepsMem (s : State) : (tick s).1.mem = s.mem := by
  unfold tick
  split <;> rfl

theorem setKey_keepsMem (k : Byte) (p : Bool) (s : State) : (setKey k p s).1.mem = s.mem := by
  rcases Nat.lt_or_ge k.toNat 16 with hk | hk
  · rw [setKey_accepted p hk]
    split <;> rfl
  · rw [setKey_rejected p hk]

/-- An accepted LOAD writes reset's bytes again and its image above them; a rejected one changes nothing (47_interface.md
R231). -/
theorem load_keepsReserved (image : List Byte) {s : State} (hr : s.ReservedIntact) : (load image s).1.ReservedIntact := by
  rcases Nat.lt_or_ge 3584 image.length with hl | hl
  · rw [load_rejected hl]
    exact hr
  · rw [load_accepted hl]
    intro q hq
    rw [State.byteAt_load hl, if_neg (by omega)]
    rfl

theorem perform_keepsReserved {c : Command} {s t : State} (hm : Memory.wf s.cfg s.mem = true) (hr : s.ReservedIntact)
    (h : perform c s = .next t) : t.ReservedIntact := by
  cases c with
  | cycle r =>
    obtain ⟨u, hu, rfl⟩ := runCycle_cases h
    exact (cycle_keepsReserved (s := { s with rnd := r }) hm (hr.congr rfl rfl) hu).congr rfl rfl
  | tick => cases h; exact hr.congr (tick_keepsParametersAndQueue s).cfg (tick_keepsMem s)
  | setKey k p => cases h; exact hr.congr (setKey_keepsParametersAndQueue k p s).cfg (setKey_keepsMem k p s)
  | load image => cases h; exact (load_keepsReserved image hr).congr rfl rfl

theorem State.nextCommand_cfg (s : State) : s.nextCommand.2.cfg = s.cfg := by
  obtain ⟨-, hn⟩ | ⟨c, cs, -, hn⟩ := s.nextCommand_cases <;> rw [hn]

theorem State.nextCommand_mem (s : State) : s.nextCommand.2.mem = s.mem := by
  obtain ⟨-, hn⟩ | ⟨c, cs, -, hn⟩ := s.nextCommand_cases <;> rw [hn]

/-- In an intact reserved region the font reads as the parameters give it, because it fits below 0x200 (10_state.md R34). -/
theorem State.ReservedIntact.byteAt_font {s : State} (hr : s.ReservedIntact) (hw : s.cfg.wellFormed = true) {g j : Nat}
    (hg : g < 16) (hj : j < 5) : s.byteAt (s.cfg.fontBase + 5 * g + j) = s.cfg.fontGlyphs[g][j] := by
  have hfit : s.cfg.fontBase + 80 ≤ 0x200 := of_decide_eq_true hw
  rw [hr _ (by omega), unlistedByte_font g j hg hj]

/-- Settles O24: the only stores of an instruction lie behind a CheckWrite, a LOAD puts reset's bytes back, and no command
changes where the font stands. -/
theorem stepKeepsTheReservedRegion : Obligations.StepKeepsTheReservedRegion := by
  intro s t hi hr h
  have hmem : Memory.wf s.nextCommand.2.cfg s.nextCommand.2.mem = true := by
    rw [s.nextCommand_cfg, s.nextCommand_mem]
    exact hi.mem
  have ht : t.ReservedIntact := perform_keepsReserved hmem (hr.congr s.nextCommand_cfg s.nextCommand_mem) h
  have hcfg : t.cfg = s.cfg := (perform_keepsParametersAndQueue h).cfg.trans s.nextCommand_cfg
  refine ⟨ht, fun g j hg hj => ?_⟩
  rw [ht.byteAt_font (hcfg ▸ hi.cfg) hg hj]
  simp only [hcfg]

/-- The core neither waits nor is halted after reset, so the clauses about a wait hold vacuously. -/
theorem reset_inv : State.reset.Inv where
  cfg := by decide
  mem := Memory.wf_nil
  pc := by decide
  stack := by decide
  wait := nofun
  latch := nofun
  halted := nofun

/-- Settles O23: reset lists no byte of memory, so every address reads as unlisted. -/
theorem resetMeetsTheInvariant : Obligations.ResetMeetsTheInvariant :=
  ⟨reset_inv, fun a _ => Memory.read_nil a⟩

/-! ## The stack (10_state.md R26, R27) -/

/-- SP and the sixteen slots are as before. -/
structure StackKept (s t : State) : Prop where
  sp : t.sp = s.sp
  stack : t.stack = s.stack

theorem exec_keepsStack {i : Instr} {s t : State} (h : exec i s = .next t) (hcall : ∀ nnn, i ≠ .call nnn)
    (hret : i ≠ .ret) : StackKept s t := by
  cases i with
  | ret => exact absurd rfl hret
  | call nnn => exact absurd rfl (hcall nnn)
  | ldMemVx x | ldVxMem x => exact checked_keeps h (fun _ => ⟨rfl, rfl⟩) ⟨by simp, by simp⟩
  | skp x | sknp x | ldFVx x | ldBVx x | drw x y n => exact checked_keeps h (fun _ => ⟨rfl, rfl⟩) ⟨rfl, rfl⟩
  | _ => cases h; exact ⟨rfl, rfl⟩

/-- 00EE decrements SP and writes no slot. -/
theorem exec_ret_stack {s t : State} (h : exec .ret s = .next t) : t.stack = s.stack := by
  obtain rfl | ⟨_, rfl⟩ := exec_ret_cases h <;> rfl

/-- 2NNN writes no slot but S[SP]. -/
theorem exec_call_stack_of_ne {nnn : Addr} {s t : State} (h : exec (.call nnn) s = .next t) {j : Nat} (hj : j < 16)
    (hne : j ≠ s.sp.val) : t.stack[j] = s.stack[j] := by
  obtain rfl | ⟨hs, rfl⟩ := exec_call_cases h
  · rfl
  · exact Vector.getElem_set_ne hs hj (Ne.symm hne)

/-- Settles O28: every instruction but 2NNN and 00EE keeps the stack, and of the slots a call reaches S[SP] only. -/
theorem stackChangesOnlyByCallAndReturn : Obligations.StackChangesOnlyByCallAndReturn := by
  intro i s t h
  by_cases hcall : ∃ nnn, i = .call nnn
  · obtain ⟨nnn, rfl⟩ := hcall
    exact ⟨fun _ => .inl ⟨nnn, rfl⟩, fun j hj hne =>
      ⟨by_contra fun hsp => hne (exec_call_stack_of_ne h hj hsp), nnn, rfl⟩⟩
  by_cases hret : i = .ret
  · subst hret
    exact ⟨fun _ => .inr rfl, fun j hj hne => absurd (by simp only [exec_ret_stack h]) hne⟩
  obtain ⟨hsp, hstack⟩ := exec_keepsStack h (not_exists.1 hcall) hret
  exact ⟨fun hne => hne.elim (absurd hsp) (absurd hstack), fun j hj hne => absurd (by simp only [hstack]) hne⟩

/-! ## VF (10_state.md R21) -/

/-- A register load changes VF only with VF as its destination. -/
theorem State.eq_vf_of_getV_load_ne {s : State} {x : Nibble} {b : Byte} (h : (s.load x b).getV vf ≠ s.getV vf) :
    x = vf := by
  by_contra hx
  exact h (by rw [State.getV_load, if_neg (Ne.symm hx)])

/-- FX65 with X < F loads registers below VF only (44_index_memory.md R187). -/
theorem State.readV_loadRegs_vf (s : State) (a : Nat) {x : Nibble} (hx : x ≠ vf) :
    readV (s.loadRegs a (x.toNat + 1)) vf = s.getV vf := by
  have hlt : ¬15 < x.toNat + 1 := by
    have : x.toNat ≠ 15 := fun e => hx (BitVec.eq_of_toNat_eq e)
    omega
  exact (s.getElem_loadRegs a (x.toNat + 1) 15 (by omega)).trans (if_neg hlt)

/-- FX65 changes VF only with X = F. -/
theorem exec_ldVxMem_keepsVf {x : Nibble} {s t : State} (h : exec (.ldVxMem x) s = .next t) (hx : x ≠ vf) :
    t.getV vf = s.getV vf := by
  refine checked_keeps (P := fun u => u.getV vf = s.getV vf) h (fun _ => rfl) ?_
  rw [State.getV_advance, State.getV, State.advanceI_v]
  exact s.readV_loadRegs_vf s.base hx

/-- Settles O29, instruction by instruction: the flag instructions and DXYN are allowed any change, a register load or FX65 only
one with VF as its destination, and the others keep every register. -/
theorem vfChangesOnlyByItsWriters : Obligations.VfChangesOnlyByItsWriters := by
  intro i s t h hne
  cases i with
  | addReg x y | sub x y | shr x y | subn x y | shl x y => exact .inl ⟨x, y, by simp⟩
  | drw x y n => exact .inr (.inl ⟨x, y, n, rfl⟩)
  | ldImm x nn | addImm x nn | rnd x nn =>
    cases h
    obtain rfl := State.eq_vf_of_getV_load_ne hne
    exact .inr (.inr (.inl ⟨nn, by simp⟩))
  | ldReg x y | or x y | and x y | xor x y =>
    cases h
    obtain rfl := State.eq_vf_of_getV_load_ne hne
    exact .inr (.inr (.inr (.inl ⟨y, by simp⟩)))
  | ldVxDt x =>
    cases h
    obtain rfl := State.eq_vf_of_getV_load_ne hne
    exact .inr (.inr (.inr (.inr (.inl rfl))))
  | ldVxMem x =>
    obtain rfl : x = vf := by_contra fun hx => hne (exec_ldVxMem_keepsVf h hx)
    exact .inr (.inr (.inr (.inr (.inr rfl))))
  | ret => obtain rfl | ⟨_, rfl⟩ := exec_ret_cases h <;> exact absurd rfl hne
  | call nnn => obtain rfl | ⟨_, rfl⟩ := exec_call_cases h <;> exact absurd rfl hne
  | ldMemVx x =>
    have hv : t.v = s.v := checked_keeps (P := fun u => u.v = s.v) h (fun _ => rfl) (by simp)
    exact absurd (State.getV_congr hv vf) hne
  | skp x | sknp x | ldFVx x | ldBVx x =>
    have hv : t.v = s.v := checked_keeps (P := fun u => u.v = s.v) h (fun _ => rfl) rfl
    exact absurd (State.getV_congr hv vf) hne
  | _ => cases h; exact absurd rfl hne

end Sys2Proof.Machine
end

section
/-! PROOFS. The invariant of the core (`State.Inv`): what an instruction leaves in PC, the stack slots, memory and the wait, and that
every command keeps the invariant. -/

namespace Sys2Proof.Machine

/-! ## PC, the stack slots and memory after an instruction -/

theorem toNat_add_le {a b : Word} {m n : Nat} (ha : a.toNat ≤ m) (hb : b.toNat ≤ n) : (a + b).toNat ≤ m + n := by
  rw [BitVec.toNat_add]
  omega

/-- An instruction fetched at 0xFFE or below leaves PC at most at 0x10FE, the largest target of BNNN (10_state.md R24). -/
theorem exec_pc_le {i : Instr} {s t : State} (hpc : s.pc.toNat ≤ 0xFFE)
    (hstack : ∀ j (h : j < 16), s.stack[j].toNat ≤ 0x1000) (h : exec i s = .next t) : t.pc.toNat ≤ 0x10FE := by
  have hadvance : (s.pc + 2).toNat ≤ 0x10FE := (toNat_add_le hpc (n := 2) (by decide)).trans (by decide)
  have hskip (c : Bool) : (s.pc + if c then 4 else 2).toNat ≤ 0x10FE :=
    (toNat_add_le hpc (n := 4) (by cases c <;> decide)).trans (by decide)
  have hjump (nnn : Addr) : (addrOperand nnn).toNat ≤ 0xFFF := by
    rw [addrOperand_toNat]
    omega
  cases i with
  | ret =>
    obtain rfl | ⟨hs, rfl⟩ := exec_ret_cases h
    · exact hpc.trans (by decide)
    · exact (hstack (s.sp.val - 1) (by omega)).trans (by decide)
  | call nnn =>
    obtain rfl | ⟨hs, rfl⟩ := exec_call_cases h
    · exact hpc.trans (by decide)
    · exact (hjump nnn).trans (by decide)
  | jp nnn => cases h; exact (hjump nnn).trans (by decide)
  | jpV0 nnn =>
    cases h
    have hv : (wordOperand (s.getV 0)).toNat ≤ 0xFF := by
      rw [wordOperand_toNat]
      omega
    exact toNat_add_le (hjump nnn) hv
  | seImm x nn | sneImm x nn | seReg x y | sneReg x y => cases h; exact hskip _
  | skp x | sknp x => exact checked_keeps (P := (·.pc.toNat ≤ 0x10FE)) h (fun _ => hpc.trans (by decide)) (hskip _)
  | ldVxK x => cases h; exact hpc.trans (by decide)
  | ldMemVx x | ldVxMem x =>
    exact checked_keeps (P := (·.pc.toNat ≤ 0x10FE)) h (fun _ => hpc.trans (by decide)) (by simpa using hadvance)
  | ldFVx x | ldBVx x | drw x y n =>
    exact checked_keeps (P := (·.pc.toNat ≤ 0x10FE)) h (fun _ => hpc.trans (by decide)) hadvance
  | _ => cases h; exact hadvance

/-- A call at 0xFFE or below pushes a return address of at most 0x1000 (41_flow.md R122); nothing else writes a slot. -/
theorem exec_stack_le {i : Instr} {s t : State} (hpc : s.pc.toNat ≤ 0xFFE)
    (hstack : ∀ j (h : j < 16), s.stack[j].toNat ≤ 0x1000) (h : exec i s = .next t) (j : Nat) (hj : j < 16) :
    t.stack[j].toNat ≤ 0x1000 := by
  cases i with
  | ret => simpa only [exec_ret_stack h] using hstack j hj
  | call nnn =>
    obtain rfl | ⟨hs, rfl⟩ := exec_call_cases h
    · exact hstack j hj
    · rw [Vector.getElem_set]
      split
      · exact toNat_add_le hpc (n := 2) (by decide)
      · exact hstack j hj
  | _ => simpa only [(exec_keepsStack h nofun nofun).stack] using hstack j hj

theorem StoresWritable.wf {s t : State} (h : StoresWritable s t) (hm : Memory.wf s.cfg s.mem = true) :
    Memory.wf s.cfg t.mem = true := by
  obtain ⟨a, bs, -, hhigh, ht⟩ := h
  rw [ht]
  exact State.wf_store hm hhigh

theorem exec_keepsMemWf {i : Instr} {s t : State} (hm : Memory.wf s.cfg s.mem = true) (h : exec i s = .next t) :
    Memory.wf t.cfg t.mem = true := by
  rw [(exec_hostSideKept h).cfg]
  obtain he | ⟨-, hw⟩ := exec_mem_cases h
  · rw [he]
    exact hm
  · exact hw.wf hm

/-! ## The wait (46_timers_keys.md R213) -/

/-- The wait and its latch are as before. -/
structure WaitKept (s t : State) : Prop where
  awaiting : t.awaiting = s.awaiting
  latchValid : t.latchValid = s.latchValid

theorem exec_keepsWait {i : Instr} {s t : State} (h : exec i s = .next t) (hi : ∀ x, i ≠ .ldVxK x) : WaitKept s t := by
  cases i with
  | ldVxK x => exact absurd rfl (hi x)
  | ret => obtain rfl | ⟨_, rfl⟩ := exec_ret_cases h <;> exact ⟨rfl, rfl⟩
  | call nnn => obtain rfl | ⟨_, rfl⟩ := exec_call_cases h <;> exact ⟨rfl, rfl⟩
  | ldMemVx x | ldVxMem x => exact checked_keeps h (fun _ => ⟨rfl, rfl⟩) ⟨by simp, by simp⟩
  | skp x | sknp x | ldFVx x | ldBVx x | drw x y n => exact checked_keeps h (fun _ => ⟨rfl, rfl⟩) ⟨rfl, rfl⟩
  | _ => cases h; exact ⟨rfl, rfl⟩

/-! ## The invariant -/

/-- A core that does not wait and has no key latched meets the clauses about the wait. -/
theorem State.Inv.of_not_awaiting {s : State} (hcfg : s.cfg.wellFormed = true) (hmem : Memory.wf s.cfg s.mem = true)
    (hpc : s.pc.toNat ≤ 0x10FE) (hstack : ∀ j (h : j < 16), s.stack[j].toNat ≤ 0x1000) (ha : s.awaiting = false)
    (hl : s.latchValid = false) : s.Inv where
  cfg := hcfg
  mem := hmem
  pc := hpc
  stack := hstack
  wait := by simp [ha]
  latch := by simp [hl]
  halted := fun _ => ha

theorem State.Inv.latchValid_eq_false {s : State} (hi : s.Inv) (ha : s.awaiting = false) : s.latchValid = false := by
  by_contra hl
  exact absurd (hi.latch (by simpa using hl)) (by simp [ha])

theorem State.Inv.takeFault {s : State} (hi : s.Inv) (ha : s.awaiting = false) (c : Cause) (op : Word) :
    (s.takeFault c op).Inv :=
  ⟨hi.cfg, hi.mem, hi.pc, hi.stack, hi.wait, hi.latch, fun _ => ha⟩

theorem latch_inv {s : State} (hi : s.Inv) (ha : s.awaiting = true) (k : Byte) : (s.latch k).Inv :=
  ⟨hi.cfg, hi.mem, hi.pc, hi.stack, hi.wait, fun _ => ha, hi.halted⟩

/-- No clause is about the timers, the keys, the ports or the queue. -/
theorem State.Inv.congr {s t : State} (hi : s.Inv)
    (h : t = { s with dt := t.dt, st := t.st, keys := t.keys, rnd := t.rnd, resp := t.resp, pending := t.pending,
                      draws := t.draws }) : t.Inv := by
  rw [h]
  exact ⟨hi.cfg, hi.mem, hi.pc, hi.stack, hi.wait, hi.latch, hi.halted⟩

theorem State.Inv.nextCommand {s : State} (hi : s.Inv) : s.nextCommand.2.Inv := by
  obtain ⟨-, hn⟩ | ⟨c, cs, -, hn⟩ := s.nextCommand_cases <;> rw [hn] <;> exact hi.congr rfl

/-- FX0A starts its wait with its own word at PC; every other instruction leaves a core that does not wait. -/
theorem exec_inv {i : Instr} {s t : State} (hi : s.Inv) (hh : s.halted = false) (ha : s.awaiting = false)
    (hf : s.fetch = some (encode i)) (h : exec i s = .next t) : t.Inv := by
  by_cases hk : ∃ x, i = .ldVxK x
  · obtain ⟨x, rfl⟩ := hk
    cases h
    exact ⟨hi.cfg, hi.mem, hi.pc, hi.stack, fun _ => hf, nofun, fun e => nomatch hh.symm.trans e⟩
  · have hpc : s.pc.toNat ≤ 0xFFE := (State.fetch_eq_some.1 hf).1
    obtain ⟨hawait, hlatch⟩ := exec_keepsWait h (not_exists.1 hk)
    exact .of_not_awaiting ((exec_hostSideKept h).cfg ▸ hi.cfg) (exec_keepsMemWf hi.mem h) (exec_pc_le hpc hi.stack h)
      (exec_stack_le hpc hi.stack h) (hawait.trans ha) (hlatch.trans (hi.latchValid_eq_false ha))

/-- The wait step ends the wait or changes nothing; the waiting FX0A stands at 0xFFE or below, since it was fetched. -/
theorem waitStep_inv {s : State} (hi : s.Inv) (ha : s.awaiting = true) : s.waitStep.Inv := by
  unfold State.waitStep
  split
  · have hpc : s.pc.toNat ≤ 0xFFE := (State.fetch_eq_some.1 (hi.wait ha)).1
    exact .of_not_awaiting hi.cfg hi.mem ((toNat_add_le hpc (n := 2) (by decide)).trans (by decide)) hi.stack rfl rfl
  · exact hi

theorem cycle_inv {s t : State} (hi : s.Inv) (h : cycle s = .next t) : t.Inv := by
  obtain ⟨-, rfl⟩ | ⟨-, ha, rfl⟩ | ⟨-, ha, -, rfl⟩ | ⟨op, w, -, ha, -, -, rfl⟩ | ⟨op, i, hh, ha, hf, hd, he⟩ := cycle_cases h
  · exact hi
  · exact waitStep_inv hi ha
  · exact hi.takeFault ha ..
  · exact hi.takeFault ha ..
  · exact exec_inv hi hh ha (encode_of_decode hd ▸ hf) he

theorem tick_inv {s : State} (hi : s.Inv) : (tick s).1.Inv := by
  unfold tick
  split
  · exact hi
  · exact hi.congr rfl

/-- A key is latched only during a wait (46_timers_keys.md R214). -/
theorem setKey_inv {s : State} (hi : s.Inv) (k : Byte) (p : Bool) : (setKey k p s).1.Inv := by
  rcases Nat.lt_or_ge k.toNat 16 with hk | hk
  · rw [setKey_accepted p hk]
    split
    next hq =>
      obtain ⟨-, -, ha, -⟩ := (State.qualifies_iff hk).1 hq
      exact (latch_inv hi ha k).congr rfl
    next => exact hi.congr rfl
  · rw [setKey_rejected p hk]
    exact hi

/-- An accepted image ends at 0xFFF at the latest (47_interface.md R231). -/
theorem load_inv {s : State} (hi : s.Inv) (image : List Byte) : (load image s).1.Inv := by
  rcases Nat.lt_or_ge 3584 image.length with hl | hl
  · rw [load_rejected hl]
    exact hi
  · rw [load_accepted hl]
    have hmem : Memory.wf s.cfg (s.coreReset.store progBase image).mem = true :=
      State.wf_store (s := s.coreReset) Memory.wf_nil (by rw [progBase]; omega)
    exact .of_not_awaiting hi.cfg hmem reset_inv.pc reset_inv.stack rfl rfl

theorem perform_inv {c : Command} {s t : State} (hi : s.Inv) (h : perform c s = .next t) : t.Inv := by
  cases c with
  | cycle r =>
    obtain ⟨u, hu, rfl⟩ := runCycle_cases h
    exact (cycle_inv (s := { s with rnd := r }) (hi.congr rfl) hu).congr rfl
  | tick => cases h; exact (tick_inv hi).congr rfl
  | setKey k p => cases h; exact (setKey_inv hi k p).congr rfl
  | load image => cases h; exact (load_inv hi image).congr rfl

/-- Settles O21: taking the command off the queue and performing it both keep the invariant. -/
theorem stepKeepsTheInvariant : Obligations.StepKeepsTheInvariant :=
  fun _ _ hi h => perform_inv hi.nextCommand h

end Sys2Proof.Machine
end

section
/-! PROOFS. What changes a byte of memory (20_memory.md R53, R67), and that a stored word is the one fetched (R63). -/

namespace Sys2Proof.Machine

/-! ## What changes a byte of memory -/

theorem StoresWritable.of_byteAt_ne {s t : State} (h : StoresWritable s t) (hc : t.cfg = s.cfg)
    (hm : Memory.wf s.cfg s.mem = true) {q : Nat} (hne : t.byteAt q ≠ s.byteAt q) : 0x200 ≤ q ∧ q < 4096 := by
  obtain ⟨a, bs, hlow, hhigh, ht⟩ := h
  rw [State.byteAt_congr (s := s.store a bs) hc ht, State.byteAt_store hm hhigh] at hne
  have hq : a ≤ q ∧ q < a + bs.length := by_contra fun hq => hne (if_neg hq)
  omega

/-- A CYCLE that changes a byte runs FX33 or FX55, and the byte lies at 0x200 or above. -/
theorem cycle_byteAt_ne {s t : State} {q : Nat} (hm : Memory.wf s.cfg s.mem = true) (h : cycle s = .next t)
    (hne : t.byteAt q ≠ s.byteAt q) :
    0x200 ≤ q ∧ q < 4096 ∧ ∃ x, s.Runs (.ldBVx x) ∨ s.Runs (.ldMemVx x) := by
  obtain ⟨-, rfl⟩ | ⟨-, -, rfl⟩ | ⟨-, -, -, rfl⟩ | ⟨op, w, -, -, -, -, rfl⟩ | ⟨op, i, hh, ha, hf, hd, hi⟩ := cycle_cases h
  · exact absurd rfl hne
  · exact absurd (State.byteAt_congr (waitStep_keepsParametersAndQueue s).cfg (waitStep_keepsMem s) q) hne
  · exact absurd rfl hne
  · exact absurd rfl hne
  · have hc := (exec_hostSideKept hi).cfg
    obtain he | ⟨⟨x, hx⟩, hw⟩ := exec_mem_cases hi
    · exact absurd (State.byteAt_congr hc he q) hne
    · obtain ⟨hlow, hhigh⟩ := hw.of_byteAt_ne hc hm hne
      have hruns : s.Runs i := ⟨hh, ha, op, hf, hd⟩
      obtain rfl | rfl := hx
      · exact ⟨hlow, hhigh, x, .inl hruns⟩
      · exact ⟨hlow, hhigh, x, .inr hruns⟩

theorem perform_byteAt_ne {c : Command} {s t : State} {q : Nat} (hm : Memory.wf s.cfg s.mem = true)
    (h : perform c s = .next t) (hne : t.byteAt q ≠ s.byteAt q) :
    (∃ image, c = .load image ∧ image.length ≤ 3584) ∨
    ((∃ r, c = .cycle r) ∧ 0x200 ≤ q ∧ q < 4096 ∧ ∃ x, s.Runs (.ldBVx x) ∨ s.Runs (.ldMemVx x)) := by
  cases c with
  | cycle r =>
    obtain ⟨u, hu, rfl⟩ := runCycle_cases h
    exact .inr ⟨⟨r, rfl⟩, cycle_byteAt_ne (s := { s with rnd := r }) hm hu hne⟩
  | tick => cases h; exact absurd (State.byteAt_congr (tick_keepsParametersAndQueue s).cfg (tick_keepsMem s) q) hne
  | setKey k p =>
    cases h
    exact absurd (State.byteAt_congr (setKey_keepsParametersAndQueue k p s).cfg (setKey_keepsMem k p s) q) hne
  | load image =>
    refine .inl ⟨image, rfl, not_lt.1 fun hl => ?_⟩
    rw [perform, load_rejected hl] at h
    cases h
    exact hne rfl

theorem State.runs_nextCommand {s : State} {i : Instr} : s.nextCommand.2.Runs i ↔ s.Runs i := by
  obtain ⟨-, hn⟩ | ⟨c, cs, -, hn⟩ := s.nextCommand_cases <;> rw [hn] <;> exact Iff.rfl

/-- Settles O26: an instruction stores behind its CheckWrite only, and no command but LOAD writes memory itself. -/
theorem memoryChangesOnlyByStoresAndLoad : Obligations.MemoryChangesOnlyByStoresAndLoad := by
  intro s t q hi h hne
  rw [← State.byteAt_congr s.nextCommand_cfg s.nextCommand_mem q] at hne
  refine (perform_byteAt_ne hi.nextCommand.mem h hne).imp_right ?_
  rintro ⟨hc, hlow, hhigh, x, hx⟩
  exact ⟨hlow, hhigh, x, hx.imp (⟨hc, State.runs_nextCommand.1 ·⟩) (⟨hc, State.runs_nextCommand.1 ·⟩)⟩

/-! ## Stored bytes are fetched (20_memory.md R63) -/

/-- FX55 inside the writable range takes no fault (44_index_memory.md R186). -/
theorem exec_ldMemVx_of_writable {x : Nibble} {s : State} (hhigh : s.base + x.toNat ≤ 0xFFF) (hlow : 0x200 ≤ s.base) :
    exec (.ldMemVx x) s = .next ((s.store s.base (s.regsUpTo x)).advanceI x).advance := by
  have hcheck : checkWrite s.base (x.toNat + 1) = none := checkWrite_eq_none.2 ⟨hhigh, hlow⟩
  rw [exec, execLdMemVx, hcheck, checked_none]

/-- After FX55 the byte at I + j is V[j], for every j up to X. -/
theorem byteAt_store_regsUpTo {x j : Nibble} {s : State} (hm : Memory.wf s.cfg s.mem = true)
    (hhigh : s.base + x.toNat ≤ 0xFFF) (hj : j.toNat ≤ x.toNat) :
    (s.store s.base (s.regsUpTo x)).byteAt (s.base + j.toNat) = s.getV j := by
  have hlen := s.length_regsUpTo x
  rw [State.byteAt_store hm (by omega), if_pos (by omega), Nat.add_sub_cancel_left, s.getElem_regsUpTo x _ hj,
    BitVec.ofNat_toNat, BitVec.setWidth_eq]

/-- Settles O46: PC + 2 is I + k, so the two bytes fetched are V[k] and V[k + 1] as FX55 stored them. -/
theorem storedWordIsFetchedNext : Obligations.StoredWordIsFetchedNext := by
  intro x k s t hi (hhigh : s.base + x.toNat ≤ 0xFFF) hlow hk (hpc : s.pc.toNat + 2 = s.base + k.toNat) h
  cases (exec_ldMemVx_of_writable hhigh hlow).symm.trans h
  have hnext : (s.pc + 2).toNat = s.base + k.toNat :=
    (BitVec.toNat_add_of_lt (by have := hi.pc; simp; omega)).trans hpc
  have hsucc : (k + 1).toNat = k.toNat + 1 := BitVec.toNat_add_of_lt (by simp; omega)
  have hread (j : Nibble) (hj : j.toNat ≤ x.toNat) :
      ((s.store s.base (s.regsUpTo x)).advanceI x).advance.byteAt (s.base + j.toNat) = s.getV j :=
    (State.byteAt_congr (by simp) (by simp) _).trans (byteAt_store_regsUpTo hi.mem hhigh hj)
  rw [State.fetch_eq_some, State.advance_pc, State.advanceI_pc, State.store_pc, hnext, Nat.add_assoc, ← hsucc,
    hread k (by omega), hread (k + 1) (by omega)]
  exact ⟨by omega, rfl⟩

end Sys2Proof.Machine
end

section
/-! PROOFS. The decoder and the encoder (30_encoding.md): decode inverts encode, each row of the opcode table is the words of one
instruction, and the Unknown space. The decoder's branches are walked once, in `decode_encode` and in the lemmas about Unknown words;
the other proofs follow from those and from `decode_cases`. -/

namespace Sys2Proof.Laws.EncodesInItsRow

/-- Every instruction is well formed and encodes into its own row of the opcode table (30_encoding.md R86, R88). -/
theorem holds : ∀ i, Statement i
  | .cls => cls
  | .ret => ret
  | .jp nnn => jp nnn
  | .call nnn => call nnn
  | .seImm x nn => seImm x nn
  | .sneImm x nn => sneImm x nn
  | .seReg x y => seReg x y
  | .ldImm x nn => ldImm x nn
  | .addImm x nn => addImm x nn
  | .ldReg x y => ldReg x y
  | .or x y => or x y
  | .and x y => and x y
  | .xor x y => xor x y
  | .addReg x y => addReg x y
  | .sub x y => sub x y
  | .shr x y => shr x y
  | .subn x y => subn x y
  | .shl x y => shl x y
  | .sneReg x y => sneReg x y
  | .ldI nnn => ldI nnn
  | .jpV0 nnn => jpV0 nnn
  | .rnd x nn => rnd x nn
  | .drw x y n => drw x y n
  | .skp x => skp x
  | .sknp x => sknp x
  | .ldVxDt x => ldVxDt x
  | .ldVxK x => ldVxK x
  | .ldDtVx x => ldDtVx x
  | .ldStVx x => ldStVx x
  | .addIVx x => addIVx x
  | .ldFVx x => ldFVx x
  | .ldBVx x => ldBVx x
  | .ldMemVx x => ldMemVx x
  | .ldVxMem x => ldVxMem x

end Sys2Proof.Laws.EncodesInItsRow

namespace Sys2Proof

theorem Instr.wellFormed_eq_true (i : Instr) : i.wellFormed = true := (Laws.EncodesInItsRow.holds i).1

/-! ## Decode inverts encode (30_encoding.md R95) -/

/-- The family nibble selects the branch; in families 5, 8, 9, E and F the fields N or NN select inside it. -/
theorem decode_encode (i : Instr) : decode (encode i) = .instr i := by
  cases i with
  | cls | ret => decide
  | jp | call | ldI | jpV0 => simp [encode, decode]
  | seImm | sneImm | ldImm | addImm | rnd => simp [encode, decode]
  | seReg | sneReg | drw => simp [encode, decode]
  | ldReg | or | and | xor | addReg | sub | shr | subn | shl => simp [encode, decode, decodeAlu]
  | skp | sknp => simp [encode, decode, decodeKeySkip]
  | ldVxDt | ldVxK | ldDtVx | ldStVx | addIVx | ldFVx | ldBVx | ldMemVx | ldVxMem => simp [encode, decode, decodeMisc]

theorem decode_eq_instr_iff {op : Word} {i : Instr} : decode op = .instr i ↔ encode i = op :=
  ⟨encode_of_decode, fun h => h ▸ decode_encode i⟩

theorem decodeBytes_encodeBytes_append (i : Instr) (rest : List Byte) :
    decodeBytes (encodeBytes i ++ rest) = .ok (i, rest) := by
  simp [encodeBytes, decodeBytes, decode_encode]

/-- Settles O1: the round trip over words is `decode_encode`, and the two bytes of a word join to it. -/
theorem decodeOfEncodeIsTheInstruction : Obligations.DecodeOfEncodeIsTheInstruction := fun i =>
  ⟨i.wellFormed_eq_true, decode_encode i, decodeBytes_encodeBytes_append i⟩

/-- Settles O2: an instruction that encodes to `op` is the one `op` decodes to. -/
theorem everyWordIsOneInstructionOrUnknown : Obligations.EveryWordIsOneInstructionOrUnknown := by
  intro op
  obtain hunknown | ⟨i, hi, he⟩ := decode_cases op
  · refine .inr ⟨hunknown, fun j hj => ?_⟩
    cases hunknown.symm.trans (decode_eq_instr_iff.2 hj)
  · refine .inl ⟨i, hi, he, fun j hj => ?_⟩
    cases hi.symm.trans (decode_eq_instr_iff.2 hj)
    rfl

/-! ## The rows of the opcode table (30_encoding.md R84, R88) -/

theorem Row.admits_iff {r : Row} {op : Word} : r.admits op = true ↔ op &&& r.mask = r.bits := by
  rw [Row.admits, beq_iff_eq]

theorem Instr.row_mem_opcodeTable (i : Instr) : i.row ∈ opcodeTable := by
  have hw := i.wellFormed_eq_true
  rw [Instr.wellFormed, Bool.and_eq_true, List.contains_iff_mem] at hw
  exact hw.1

theorem Instr.row_admits_encode (i : Instr) : i.row.admits (encode i) = true :=
  Row.admits_iff.2 (Laws.EncodesInItsRow.holds i).2

/-- On the bits both masks keep, both rows' fixed bits are those of a word that lies in both. -/
theorem Row.disjoint_eq_false {r q : Row} {op : Word} (hr : r.admits op = true) (hq : q.admits op = true) :
    r.disjoint q = false := by
  rw [Row.admits_iff] at hr hq
  have hagree : (r.bits ^^^ q.bits) &&& (r.mask &&& q.mask) = 0 := by
    rw [← hr, ← hq]
    ext k hk
    simp only [BitVec.getElem_and, BitVec.getElem_xor]
    cases op[k] <;> cases r.mask[k] <;> cases q.mask[k] <;> simp
  simp [Row.disjoint, hagree]

theorem opcodeTable_disjoint : ∀ r ∈ opcodeTable, ∀ q ∈ opcodeTable, r ≠ q → r.disjoint q = true := by decide

theorem row_unique {op : Word} {r q : Row} (hr : r ∈ opcodeTable) (hq : q ∈ opcodeTable) (har : r.admits op = true)
    (haq : q.admits op = true) : r = q := by
  by_contra hne
  cases (Row.disjoint_eq_false har haq).symm.trans (opcodeTable_disjoint r hr q hq hne)

/-- A defined word lies in the row of its instruction. -/
theorem decode_eq_unknown_of_no_row {op : Word} (h : ∀ r ∈ opcodeTable, r.admits op = false) : decode op = .unknown op := by
  obtain hunknown | ⟨i, -, rfl⟩ := decode_cases op
  · exact hunknown
  · have hoff := h i.row i.row_mem_opcodeTable
    rw [i.row_admits_encode] at hoff
    cases hoff

/-! ## A word of a row is made of the row's fixed bits and its own fields -/

section
variable {w b : Word}

theorem wordNNN_of_mask (h : w &&& 0xF000 = b) : wordNNN (family b) (fieldNNN w) = w := by
  rw [← mask_family w b h, wordNNN_fields]

theorem wordXNN_of_mask (h : w &&& 0xF000 = b) : wordXNN (family b) (fieldX w) (fieldNN w) = w := by
  rw [← mask_family w b h, wordXNN_fields]

theorem wordXYN_of_mask (h : w &&& 0xF000 = b) : wordXYN (family b) (fieldX w) (fieldY w) (fieldN w) = w := by
  rw [← mask_family w b h, wordXYN_fields]

theorem wordXYN_of_maskN (h : w &&& 0xF00F = b) : wordXYN (family b) (fieldX w) (fieldY w) (fieldN b) = w := by
  obtain ⟨hf, hn⟩ := mask_familyN w b h
  rw [← hf, ← hn, wordXYN_fields]

theorem wordXNN_of_maskNN (h : w &&& 0xF0FF = b) : wordXNN (family b) (fieldX w) (fieldNN b) = w := by
  obtain ⟨hf, hn⟩ := mask_familyNN w b h
  rw [← hf, ← hn, wordXNN_fields]

end

/-! ## The Unknown space (30_encoding.md R90) -/

theorem decode_eq_unknown_iff_of_family_zero {op : Word} (hf : family op = 0x0) :
    decode op = .unknown op ↔ op ≠ 0x00E0 ∧ op ≠ 0x00EE := by
  simp only [decode, hf, ↓reduceIte]
  clear hf
  split_ifs <;> simp_all

theorem decodeAlu_eq_unknown_iff {op : Word} : decodeAlu op = .unknown op ↔
    fieldN op ∈ ([0x8, 0x9, 0xA, 0xB, 0xC, 0xD, 0xF] : List Nibble) := by
  rcases family_cases (fieldN op) with h | h | h | h | h | h | h | h | h | h | h | h | h | h | h | h <;> simp [decodeAlu, h]

theorem decodeKeySkip_eq_unknown_iff {op : Word} : decodeKeySkip op = .unknown op ↔
    fieldNN op ∉ ([0x9E, 0xA1] : List Byte) := by
  rw [decodeKeySkip]
  split_ifs <;> simp_all

theorem decodeMisc_eq_unknown_iff {op : Word} : decodeMisc op = .unknown op ↔
    fieldNN op ∉ ([0x07, 0x0A, 0x15, 0x18, 0x1E, 0x29, 0x33, 0x55, 0x65] : List Byte) := by
  simp only [decodeMisc]
  split_ifs <;> simp_all

/-- Settles O4: in family 0 two words are defined, families 5, 8, 9, E and F are selected by N or NN, and the other ten are
defined throughout. -/
theorem unknownSpaceIsTheListedWords : Obligations.UnknownSpaceIsTheListedWords := by
  intro op
  rcases family_cases (family op) with hf | hf | hf | hf | hf | hf | hf | hf | hf | hf | hf | hf | hf | hf | hf | hf
  · simp [decode_eq_unknown_iff_of_family_zero hf, hf]
  all_goals simp [decode, hf, decodeAlu_eq_unknown_iff, decodeKeySkip_eq_unknown_iff, decodeMisc_eq_unknown_iff]

end Sys2Proof

namespace Sys2Proof.Machine

/-! ## Each row is the words of one instruction (30_encoding.md R84, R85) -/

/-- The words of a row decode to `mk` of the word when `mk` belongs to the row and gives the row's words back. -/
theorem encodes_of_row {m b : Word} {mk : Word → Instr} (hrow : ∀ w, (mk w).row = ⟨m, b⟩)
    (hword : ∀ w, w &&& m = b → encode (mk w) = w) : Encodes m b mk := by
  refine fun w => ⟨fun h => decode_eq_instr_iff.2 (hword w h), fun h => ?_⟩
  have hadmits := Row.admits_iff.1 (mk w).row_admits_encode
  rwa [hrow, decode_eq_instr_iff.1 h] at hadmits

/-! One lemma per layout of R81 and mask of R88. That the constructor belongs to the row and has the layout holds by computation. -/

section
variable {b : Word}

theorem encodes_full {i : Instr} (hrow : i.row = ⟨0xFFFF, b⟩ := by rfl) (henc : encode i = b := by rfl) :
    Encodes 0xFFFF b fun _ => i :=
  encodes_of_row (fun _ => hrow) fun w h => henc.trans (h.symm.trans (and_FFFF w))

theorem encodes_NNN {mk : Addr → Instr} (hrow : ∀ a, (mk a).row = ⟨0xF000, b⟩ := by exact fun _ => rfl)
    (henc : ∀ a, encode (mk a) = wordNNN (family b) a := by exact fun _ => rfl) :
    Encodes 0xF000 b fun w => mk (fieldNNN w) :=
  encodes_of_row (fun _ => hrow _) fun _ h => (henc _).trans (wordNNN_of_mask h)

theorem encodes_XNN {mk : Nibble → Byte → Instr} (hrow : ∀ x a, (mk x a).row = ⟨0xF000, b⟩ := by exact fun _ _ => rfl)
    (henc : ∀ x a, encode (mk x a) = wordXNN (family b) x a := by exact fun _ _ => rfl) :
    Encodes 0xF000 b fun w => mk (fieldX w) (fieldNN w) :=
  encodes_of_row (fun _ => hrow _ _) fun _ h => (henc _ _).trans (wordXNN_of_mask h)

theorem encodes_XYN {mk : Nibble → Nibble → Nibble → Instr}
    (hrow : ∀ x y n, (mk x y n).row = ⟨0xF000, b⟩ := by exact fun _ _ _ => rfl)
    (henc : ∀ x y n, encode (mk x y n) = wordXYN (family b) x y n := by exact fun _ _ _ => rfl) :
    Encodes 0xF000 b fun w => mk (fieldX w) (fieldY w) (fieldN w) :=
  encodes_of_row (fun _ => hrow _ _ _) fun _ h => (henc _ _ _).trans (wordXYN_of_mask h)

theorem encodes_XY {mk : Nibble → Nibble → Instr} (hrow : ∀ x y, (mk x y).row = ⟨0xF00F, b⟩ := by exact fun _ _ => rfl)
    (henc : ∀ x y, encode (mk x y) = wordXYN (family b) x y (fieldN b) := by exact fun _ _ => rfl) :
    Encodes 0xF00F b fun w => mk (fieldX w) (fieldY w) :=
  encodes_of_row (fun _ => hrow _ _) fun _ h => (henc _ _).trans (wordXYN_of_maskN h)

theorem encodes_X {mk : Nibble → Instr} (hrow : ∀ x, (mk x).row = ⟨0xF0FF, b⟩ := by exact fun _ => rfl)
    (henc : ∀ x, encode (mk x) = wordXNN (family b) x (fieldNN b) := by exact fun _ => rfl) :
    Encodes 0xF0FF b fun w => mk (fieldX w) :=
  encodes_of_row (fun _ => hrow _) fun _ h => (henc _).trans (wordXNN_of_maskNN h)

end

/-- Settles O3: the rows by their layouts, in the table's order. -/
theorem wordsDecodeByMaskAndMatch : Obligations.WordsDecodeByMaskAndMatch :=
  ⟨⟨encodes_full, encodes_full, encodes_NNN, encodes_NNN, encodes_XNN, encodes_XNN, encodes_XY, encodes_XNN, encodes_XNN⟩,
   ⟨encodes_XY, encodes_XY, encodes_XY, encodes_XY, encodes_XY, encodes_XY, encodes_XY, encodes_XY, encodes_XY, encodes_XY⟩,
   ⟨encodes_NNN, encodes_NNN, encodes_XNN, encodes_XYN, encodes_X, encodes_X⟩,
   ⟨encodes_X, encodes_X, encodes_X, encodes_X, encodes_X, encodes_X, encodes_X, encodes_X, encodes_X⟩,
   fun _ _ hr _ hq => row_unique hr hq, fun _ => decode_eq_unknown_of_no_row⟩

/-- Settles O5: the decoder is evaluated on each word. -/
theorem writtenOutWordsDecode : Obligations.WrittenOutWordsDecode := by
  unfold Obligations.WrittenOutWordsDecode
  decide

end Sys2Proof.Machine
end

section
/-! PROOFS. One CYCLE (40_cycle.md): the fetch, the wait step, an Unknown word, and the step that runs the decoded instruction. -/

namespace Sys2Proof.Machine

/-! ## A CYCLE and the command that performs it -/

/-- R103: a CYCLE that runs `i` is exec of `i`. -/
theorem cycle_of_runs {s : State} {i : Instr} (h : s.Runs i) : cycle s = exec i s := by
  obtain ⟨hh, ha, op, hf, hd⟩ := h
  rw [cycle_fetch_some hh ha hf, execWord, hd]

/-- R105: an Unknown word at PC is a fault. -/
theorem cycle_unknown {s : State} {op w : Word} (hh : s.halted = false) (ha : s.awaiting = false) (hf : s.fetch = some op)
    (hd : decode op = .unknown w) : cycle s = .next (s.takeFault .unknownOpcode w) := by
  rw [cycle_fetch_some hh ha hf, execWord, hd]
  rfl

theorem perform_cycle_runs {s : State} {i : Instr} (h : s.Runs i) (rnd : Byte) :
    ∃ t, exec i { s with rnd := rnd } = .next t ∧ perform (.cycle rnd) s = .next (t.respond t.cycleResponse) := by
  obtain ⟨t, ht⟩ := exec_answers i { s with rnd := rnd }
  exact ⟨t, ht, runCycle_eq ((cycle_of_runs (s := { s with rnd := rnd }) h).trans ht)⟩

/-- A CYCLE that faults answers with what it recorded (60_exceptions.md R251). -/
theorem perform_cycle_fault {s : State} {rnd : Byte} {c : Cause} {op : Word}
    (h : cycle { s with rnd := rnd } = .next (State.takeFault c op { s with rnd := rnd })) :
    perform (.cycle rnd) s = .next { s with rnd := rnd, halted := true, faultCode := c.code, faultPc := s.pc, faultOp := op,
                                            resp := .fault c.code s.pc op } := runCycle_eq h

theorem step_of_pending_nil {s : State} (h : s.pending = []) :
    step s = perform (.cycle (Config.draw s.draws)) { s with draws := s.draws + 1 } := by
  rw [step, State.nextCommand, h]

theorem step_of_pending_cons {s : State} {c : Command} {cs : List Command} (h : s.pending = c :: cs) :
    step s = perform c { s with pending := cs } := by
  rw [step, State.nextCommand, h]

/-- Settles O6: with the command taken off the queue, or the random byte drawn, the step is a CYCLE that runs `i`. -/
theorem stepRunsTheDecodedInstruction : Obligations.StepRunsTheDecodedInstruction := by
  intro s i hh ha hpc hd
  have hruns : s.Runs i := ⟨hh, ha, _, State.fetch_eq_some.2 ⟨hpc, rfl⟩, hd⟩
  refine ⟨fun hq => ?_, fun rnd cs hq => ?_⟩
  · rw [step_of_pending_nil hq]
    exact perform_cycle_runs (s := { s with draws := s.draws + 1 }) hruns _
  · rw [step_of_pending_cons hq]
    exact perform_cycle_runs (s := { s with pending := cs }) hruns rnd

/-- Settles O7: both bytes are read up to 0xFFE, and beyond nothing is fetched. -/
theorem fetchIsBigEndianAndBounded : Obligations.FetchIsBigEndianAndBounded := by
  intro s rnd hh ha
  refine ⟨fun hpc => State.fetch_eq_some.2 ⟨hpc, rfl⟩, fun hpc => ?_⟩
  exact perform_cycle_fault (cycle_fetch_none (s := { s with rnd := rnd }) hh ha (State.fetch_eq_none.2 hpc))

/-- Settles O8: decoding ends the CYCLE in the fault of the fetched word. -/
theorem unknownWordFaults : Obligations.UnknownWordFaults := fun s rnd _ hh ha hf hd =>
  perform_cycle_fault (cycle_unknown (s := { s with rnd := rnd }) hh ha hf hd)

/-! ## The wait step (R101) -/

theorem State.waitStep_of_not_latched {s : State} (h : s.latchValid = false) : s.waitStep = s := by
  simp [State.waitStep, h]

theorem State.waitStep_of_latched {s : State} (h : s.latchValid = true) : s.waitStep =
    { s with v := writeV s.v s.waitReg (s.latchKey.setWidth 8), pc := s.pc + 2, awaiting := false, latchValid := false } :=
  if_pos h

theorem State.waitStep_halted (s : State) : s.waitStep.halted = s.halted := by
  unfold State.waitStep
  split <;> rfl

theorem State.waitStep_withRnd (s : State) (b : Byte) :
    State.waitStep { s with rnd := b } = { s.waitStep with rnd := b } := by
  unfold State.waitStep
  split <;> rfl

/-- The wait step cannot fault, so the response is Ok. -/
theorem perform_cycle_waiting {s : State} (hh : s.halted = false) (ha : s.awaiting = true) (rnd : Byte) :
    perform (.cycle rnd) s = .next { s.waitStep with rnd := rnd, resp := .ok } := by
  have hcycle : cycle { s with rnd := rnd } = .next { s.waitStep with rnd := rnd } := by
    rw [← s.waitStep_withRnd rnd]
    exact cycle_waiting (s := { s with rnd := rnd }) hh ha
  refine (runCycle_eq hcycle).trans ?_
  simp [State.cycleResponse, State.respond, s.waitStep_halted, hh]

/-- Settles O9: with no key latched the wait step is the identity; a latched key goes to the waiting register. -/
theorem waitStepCompletesOrChangesNothing : Obligations.WaitStepCompletesOrChangesNothing := by
  intro s rnd hh ha
  rw [perform_cycle_waiting hh ha]
  refine ⟨fun hl => ?_, fun hl => ?_⟩
  · rw [State.waitStep_of_not_latched hl]
  · rw [State.waitStep_of_latched hl]
    have hkey : (readV (writeV s.v s.waitReg (s.latchKey.setWidth 8)) s.waitReg).toNat = s.latchKey.toNat := by
      rw [readV_writeV_same, BitVec.toNat_setWidth_of_le (by decide)]
    exact ⟨_, rfl, hkey, fun r hr => readV_writeV_of_ne s.v _ hr, fun _ => rfl, rfl⟩

end Sys2Proof.Machine
end

section
/-! PROOFS. What a CYCLE reads and writes (40_cycle.md R104, R107, R108): PC, the timers, the keys, the display, the random input. -/

namespace Sys2Proof.Machine

/-! ## PC (R104) -/

/-- A checked meaning that leaves the core running has its effect. -/
theorem checked_of_running {chk : Option Cause} {op : Word} {s t u : State} (h : checked chk op s t = .next u)
    (hu : u.halted = false) : u = t := by
  obtain ⟨c, -, rfl⟩ | ⟨-, rfl⟩ := checked_cases h
  · cases hu
  · rfl

theorem State.skipIf_pc_cases (s : State) (c : Bool) : (s.skipIf c).pc = s.pc + 2 ∨ (s.skipIf c).pc = s.pc + 4 := by
  cases c
  · exact .inl rfl
  · exact .inr rfl

/-- Settles O12: a jump, a skip, a return or a wait as its definition says, and every other instruction ends in ADVANCE. -/
theorem pcIsWrittenInFourWays : Obligations.PcIsWrittenInFourWays := by
  intro i s t _ h ht
  cases i with
  | ret =>
    obtain rfl | ⟨hs, rfl⟩ := exec_ret_cases h
    · cases ht
    · exact ⟨hs, rfl⟩
  | call nnn =>
    obtain rfl | ⟨_, rfl⟩ := exec_call_cases h
    · cases ht
    · exact addrOperand_toNat nnn
  | jp nnn => cases h; exact addrOperand_toNat nnn
  | jpV0 nnn =>
    cases h
    have hsum := BitVec.toNat_add_of_lt (x := addrOperand nnn) (y := wordOperand (s.getV 0))
    rw [addrOperand_toNat, wordOperand_toNat] at hsum
    exact hsum (by omega)
  | seImm x nn | sneImm x nn | seReg x y | sneReg x y => cases h; exact s.skipIf_pc_cases _
  | skp x | sknp x => cases checked_of_running h ht; exact s.skipIf_pc_cases _
  | ldFVx x | ldBVx x | drw x y n => cases checked_of_running h ht; rfl
  | ldMemVx x | ldVxMem x => cases checked_of_running h ht; simp
  | _ => cases h; rfl

/-! ## Keys, timers and the display (R108) -/

/-- K is kept, and DT, ST and the display change only when one of the instructions that write them is among `runs`. -/
structure IoWrittenBy (runs : Instr → Prop) (s t : State) : Prop where
  keys : t.keys = s.keys
  dt : t.dt ≠ s.dt → ∃ x, runs (.ldDtVx x)
  st : t.st ≠ s.st → ∃ x, runs (.ldStVx x)
  display : t.display ≠ s.display → runs .cls ∨ ∃ x y n, runs (.drw x y n)

theorem IoWrittenBy.of_kept {runs : Instr → Prop} {s t : State} (hk : t.keys = s.keys) (hdt : t.dt = s.dt)
    (hst : t.st = s.st) (hd : t.display = s.display) : IoWrittenBy runs s t :=
  ⟨hk, absurd hdt, absurd hst, absurd hd⟩

theorem IoWrittenBy.mono {p q : Instr → Prop} {s t : State} (h : IoWrittenBy p s t) (hpq : ∀ i, p i → q i) :
    IoWrittenBy q s t where
  keys := h.keys
  dt hne := (h.dt hne).imp fun _ => hpq _
  st hne := (h.st hne).imp fun _ => hpq _
  display hne := (h.display hne).imp (hpq _) fun ⟨x, y, n, hp⟩ => ⟨x, y, n, hpq _ hp⟩

theorem exec_ioWrittenBy {i : Instr} {s t : State} (h : exec i s = .next t) : IoWrittenBy (· = i) s t := by
  have hk : t.keys = s.keys := (exec_hostSideKept h).keys
  cases i with
  | cls => cases h; exact ⟨hk, absurd rfl, absurd rfl, fun _ => .inl rfl⟩
  | ldDtVx x => cases h; exact ⟨hk, fun _ => ⟨x, rfl⟩, absurd rfl, absurd rfl⟩
  | ldStVx x => cases h; exact ⟨hk, absurd rfl, fun _ => ⟨x, rfl⟩, absurd rfl⟩
  | drw x y n =>
    exact checked_keeps h (fun _ => .of_kept rfl rfl rfl rfl) ⟨rfl, absurd rfl, absurd rfl, fun _ => .inr ⟨x, y, n, rfl⟩⟩
  | ret => obtain rfl | ⟨_, rfl⟩ := exec_ret_cases h <;> exact .of_kept rfl rfl rfl rfl
  | call nnn => obtain rfl | ⟨_, rfl⟩ := exec_call_cases h <;> exact .of_kept rfl rfl rfl rfl
  | ldMemVx x | ldVxMem x =>
    exact checked_keeps h (fun _ => .of_kept rfl rfl rfl rfl) (.of_kept (by simp) (by simp) (by simp) (by simp))
  | skp x | sknp x | ldFVx x | ldBVx x =>
    exact checked_keeps h (fun _ => .of_kept rfl rfl rfl rfl) (.of_kept rfl rfl rfl rfl)
  | _ => cases h; exact .of_kept rfl rfl rfl rfl

theorem waitStep_ioWrittenBy (runs : Instr → Prop) (s : State) : IoWrittenBy runs s s.waitStep := by
  unfold State.waitStep
  split <;> exact .of_kept rfl rfl rfl rfl

theorem cycle_ioWrittenBy {s t : State} (h : cycle s = .next t) : IoWrittenBy s.Runs s t := by
  obtain ⟨-, rfl⟩ | ⟨-, -, rfl⟩ | ⟨-, -, -, rfl⟩ | ⟨op, w, -, -, -, -, rfl⟩ | ⟨op, i, hh, ha, hf, hd, hi⟩ := cycle_cases h
  · exact .of_kept rfl rfl rfl rfl
  · exact waitStep_ioWrittenBy s.Runs s
  · exact .of_kept rfl rfl rfl rfl
  · exact .of_kept rfl rfl rfl rfl
  · refine (exec_ioWrittenBy hi).mono fun j hj => ?_
    subst hj
    exact ⟨hh, ha, op, hf, hd⟩

/-- Settles O11: of all that a CYCLE can do only the instructions named write the timers or the display, and none writes K. -/
theorem cycleKeepsTimersKeysAndDisplay : Obligations.CycleKeepsTimersKeysAndDisplay := by
  intro s t rnd h
  obtain ⟨u, hu, rfl⟩ := runCycle_cases h
  obtain ⟨hk, hdt, hst, hd⟩ := cycle_ioWrittenBy hu
  exact ⟨hk, hdt, hst, hd⟩

/-! ## The random input (R107)

Each lemma says that an operation commutes with a change of the random input. -/

section
variable (s : State) (b : Byte)

theorem State.loadRegs_withRnd (a : Nat) : ∀ n, State.loadRegs { s with rnd := b } a n = s.loadRegs a n
  | 0 => rfl
  | n + 1 => by rw [State.loadRegs, State.loadRegs, State.loadRegs_withRnd a n]; rfl

theorem drawRows_withRnd (x0 y0 a : Nat) (cv : Canvas) : ∀ n,
    drawRows { s with rnd := b } x0 y0 a n cv = drawRows s x0 y0 a n cv
  | 0 => rfl
  | n + 1 => by rw [drawRows, drawRows, drawRows_withRnd x0 y0 a cv n]; rfl

theorem State.drawSprite_withRnd (x y n : Nibble) : State.drawSprite { s with rnd := b } x y n = s.drawSprite x y n :=
  drawRows_withRnd s b ..

theorem State.advanceI_withRnd (x : Nibble) : State.advanceI x { s with rnd := b } = { s.advanceI x with rnd := b } := by
  unfold State.advanceI
  split <;> rfl

end

theorem checked_withRnd {chk : Option Cause} {op : Word} {s t t' u : State} (b : Byte) (h : checked chk op s t = .next u)
    (ht : t' = { t with rnd := b }) : checked chk op { s with rnd := b } t' = .next { u with rnd := b } := by
  obtain ⟨c, rfl, rfl⟩ | ⟨rfl, rfl⟩ := checked_cases h
  · rfl
  · rw [checked_none, ht]

/-- No meaning but that of CXNN reads `rnd`. -/
theorem exec_withRnd {i : Instr} {s t : State} (b : Byte) (hi : ∀ x nn, i ≠ .rnd x nn) (h : exec i s = .next t) :
    exec i { s with rnd := b } = .next { t with rnd := b } := by
  cases i with
  | rnd x nn => exact absurd rfl (hi x nn)
  | ret =>
    rcases Nat.eq_zero_or_pos s.sp.val with hs | hs
    · cases (execRet_of_zero hs).symm.trans h; exact execRet_of_zero (s := { s with rnd := b }) hs
    · cases (execRet_of_pos hs).symm.trans h; exact execRet_of_pos (s := { s with rnd := b }) hs
  | call nnn =>
    rcases Nat.lt_or_ge s.sp.val 16 with hs | hs
    · cases (execCall_of_lt hs).symm.trans h; exact execCall_of_lt (s := { s with rnd := b }) hs
    · have hs : s.sp.val = 16 := by omega
      cases (execCall_of_full hs).symm.trans h; exact execCall_of_full (s := { s with rnd := b }) hs
  | drw x y n =>
    refine checked_withRnd b h ?_
    rw [State.drawSprite_withRnd]
    rfl
  | ldMemVx x =>
    refine checked_withRnd b h ?_
    exact congrArg State.advance (State.advanceI_withRnd (s.store s.base (s.regsUpTo x)) b x)
  | ldVxMem x =>
    refine checked_withRnd b h ?_
    rw [State.loadRegs_withRnd]
    exact congrArg State.advance (State.advanceI_withRnd { s with v := s.loadRegs s.base (x.toNat + 1) } b x)
  | skp x | sknp x | ldFVx x | ldBVx x => exact checked_withRnd b h rfl
  | _ => cases h; rfl

theorem cycle_withRnd {s t : State} (b : Byte) (hn : ¬∃ x nn, s.Runs (.rnd x nn)) (h : cycle s = .next t) :
    cycle { s with rnd := b } = .next { t with rnd := b } := by
  obtain ⟨hh, rfl⟩ | ⟨hh, ha, rfl⟩ | ⟨hh, ha, hf, rfl⟩ | ⟨op, w, hh, ha, hf, hd, rfl⟩ | ⟨op, i, hh, ha, hf, hd, hi⟩ :=
    cycle_cases h
  · exact cycle_halted hh
  · rw [← State.waitStep_withRnd]
    exact cycle_waiting hh ha
  · exact cycle_fetch_none hh ha hf
  · exact cycle_unknown hh ha hf hd
  · have hruns : s.Runs i := ⟨hh, ha, op, hf, hd⟩
    have hne : ∀ x nn, i ≠ .rnd x nn := fun x nn e => hn ⟨x, nn, e ▸ hruns⟩
    exact (cycle_of_runs (s := { s with rnd := b }) hruns).trans (exec_withRnd b hne hi)

/-- Settles O10: the CYCLE commutes with a change of `rnd`, which the response does not show. -/
theorem randomInputIsReadOnlyByRnd : Obligations.RandomInputIsReadOnlyByRnd := by
  intro s t a b hn h
  obtain ⟨u, hu, rfl⟩ := runCycle_cases h
  exact runCycle_eq (cycle_withRnd (s := { s with rnd := a }) b hn hu)

end Sys2Proof.Machine
end

section
/-! PROOFS. Control transfer (41_flow.md): the two jumps, the call, the return, and the round trip of a call and a return. -/

namespace Sys2Proof.Machine

/-! ## The jumps (R121, R123) -/

theorem setPc_writesPc (a : Word) (s : State) : WritesPc a s (s.setPc a) :=
  ⟨fun _ => rfl, rfl, rfl⟩

/-- The target of BNNN is the exact sum: at most 0xFFF + 0xFF, it does not reach 2^16. -/
theorem addrOperand_add_wordOperand_toNat (nnn : Addr) (b : Byte) :
    (addrOperand nnn + wordOperand b).toNat = nnn.toNat + b.toNat := by
  have hlt : (addrOperand nnn).toNat + (wordOperand b).toNat < 2 ^ 16 := by
    rw [addrOperand_toNat, wordOperand_toNat]
    omega
  rw [BitVec.toNat_add_of_lt hlt, addrOperand_toNat, wordOperand_toNat]

/-- Settles O30: each jump is one load of PC, with the operand or with a sum that does not wrap. -/
theorem jumpsLoadPc : Obligations.JumpsLoadPc :=
  ⟨⟨encodes_NNN, encodes_NNN⟩, fun nnn s =>
    ⟨⟨s.setPc (addrOperand nnn), rfl, addrOperand_toNat nnn, setPc_writesPc _ s⟩,
     ⟨s.setPc (addrOperand nnn + wordOperand (s.getV 0x0)), rfl, addrOperand_add_wordOperand_toNat nnn _,
      setPc_writesPc _ s⟩⟩⟩

/-! ## The call and the return (R120, R122) -/

/-- Settles O31: the two cases of 2NNN, a free slot and a full stack. -/
theorem callPushesTheReturnAddress : Obligations.CallPushesTheReturnAddress := by
  refine ⟨encodes_NNN, fun nnn s => ⟨fun hfree => ?_, fun hfull => ?_⟩⟩
  · exact ⟨_, execCall_of_lt hfree, rfl, rfl, addrOperand_toNat nnn, fun _ => rfl, rfl⟩
  · exact ⟨_, execCall_of_full hfull, rfl⟩

/-- Settles O32: the two cases of 00EE, an occupied slot and an empty stack. -/
theorem returnPopsTheReturnAddress : Obligations.ReturnPopsTheReturnAddress := by
  refine ⟨encodes_full, fun s => ⟨fun hoccupied => ?_, fun hempty => ?_⟩⟩
  · exact ⟨_, execRet_of_pos hoccupied, rfl, rfl, fun _ => rfl, rfl⟩
  · exact ⟨_, execRet_of_zero hempty, rfl⟩

theorem exec_ret (s : State) : exec .ret s = execRet s := rfl

/-- The return that follows a call reads the slot the call wrote, and leaves SP where it was before the call. -/
theorem exec_ret_of_pushed {s : State} (h : s.sp.val < 16) (back target : Word) :
    exec .ret { s with stack := s.stack.set s.sp.val back, sp := ⟨s.sp.val + 1, by omega⟩, pc := target } =
      .next { s with stack := s.stack.set s.sp.val back, pc := back } := by
  rw [exec_ret, execRet_of_pos s.sp.val.succ_pos]
  simp only [Nat.add_sub_cancel, Vector.getElem_set_self]

/-- Settles O33: the call pushes PC + 2, which the return loads. -/
theorem callThenReturnComesBack : Obligations.CallThenReturnComesBack := fun _ _ hfree =>
  ⟨_, _, execCall_of_lt hfree, exec_ret_of_pushed hfree _ _, rfl, rfl, rfl⟩

end Sys2Proof.Machine
end

section
/-! PROOFS. The conditional skips (42_skip.md): 3XNN, 4XNN, 5XY0, 9XY0. -/

namespace Sys2Proof.Machine

/-- A skip writes only PC; its Boolean condition `c` decides the proposition `p` that the spec compares. -/
theorem skipIf_writesPc {c : Bool} {p : Prop} [Decidable p] (hc : c = true ↔ p) (s : State) :
    WritesPc (if p then s.pc + 4 else s.pc + 2) s (s.skipIf c) := by
  have hpc : (if p then s.pc + 4 else s.pc + 2) = s.pc + if c then 4 else 2 := by
    simp only [hc, apply_ite (s.pc + ·)]
  rw [hpc]
  exact setPc_writesPc _ s

/-- Settles O34: each of the four is one `State.skipIf`, on the equality or the inequality of two bytes. -/
theorem skipsCompareRegisters : Obligations.SkipsCompareRegisters :=
  ⟨⟨encodes_XNN, encodes_XNN, encodes_XY, encodes_XY⟩, fun _ _ _ s =>
    ⟨⟨_, rfl, skipIf_writesPc beq_iff_eq s⟩, ⟨_, rfl, skipIf_writesPc bne_iff_ne s⟩,
     ⟨_, rfl, skipIf_writesPc beq_iff_eq s⟩, ⟨_, rfl, skipIf_writesPc bne_iff_ne s⟩⟩⟩

end Sys2Proof.Machine
end

section
/-! PROOFS. Register loads and the ALU (43_alu.md): the loads, 7XNN and the logic, the flag instructions in every VF_ORDER, CXNN. -/

namespace Sys2Proof.Machine

/-! ## Bytes as numbers modulo 256 -/

theorem add_eq_ofNat (a b : Byte) : a + b = BitVec.ofNat 8 ((a.toNat + b.toNat) % 256) :=
  BitVec.eq_of_toNat_eq (by simp)

theorem sub_eq_ofNat (a b : Byte) : a - b = BitVec.ofNat 8 ((a.toNat + 256 - b.toNat) % 256) :=
  BitVec.eq_of_toNat_eq (by rw [BitVec.toNat_sub, BitVec.toNat_ofNat]; omega)

theorem ushiftRight_one_eq_ofNat (a : Byte) : a >>> 1 = BitVec.ofNat 8 (a.toNat / 2) :=
  BitVec.eq_of_toNat_eq (by rw [BitVec.toNat_ushiftRight, BitVec.toNat_ofNat, Nat.shiftRight_one]; omega)

theorem shiftLeft_one_eq_ofNat (a : Byte) : a <<< 1 = BitVec.ofNat 8 ((2 * a.toNat) % 256) :=
  BitVec.eq_of_toNat_eq (by rw [BitVec.toNat_shiftLeft, BitVec.toNat_ofNat, Nat.shiftLeft_eq]; omega)

/-! ## Flags as comparisons -/

theorem flagByte_decide (p : Prop) [Decidable p] : flagByte (decide p) = if p then 1 else 0 := by
  simp only [flagByte, decide_eq_true_eq]

theorem flagByte_bitOutRight (a : Byte) : flagByte (bitOutRight a) = if a.toNat % 2 = 1 then 1 else 0 := by
  rw [← flagByte_decide, bitOutRight, BitVec.getLsbD, Nat.testBit_zero]

theorem flagByte_bitOutLeft (a : Byte) : flagByte (bitOutLeft a) = if 128 ≤ a.toNat then 1 else 0 := by
  have hmsb : bitOutLeft a = decide (128 ≤ a.toNat) := (BitVec.msb_eq_getLsbD_last a).symm.trans (BitVec.msb_eq_decide a)
  rw [hmsb, flagByte_decide]

/-! ## Register loads (R150-R155) -/

theorem State.getV_load_same (s : State) (x : Nibble) (b : Byte) : (s.load x b).getV x = b :=
  readV_writeV_same s.v x b

theorem load_writesV (x : Nibble) (b : Byte) (s : State) : WritesV x b s (s.load x b) :=
  ⟨s.getV_load_same x b, fun _ hr => readV_writeV_of_ne s.v b hr, fun _ => rfl, rfl⟩

/-- A bitwise operation `op` on bytes, loaded into V[x], acts on each bit as `bit`. -/
theorem load_writesV_bits {a b : Byte} {op : Byte → Byte → Byte} {bit : Bool → Bool → Bool}
    (hop : ∀ k, (op a b).getLsbD k = bit (a.getLsbD k) (b.getLsbD k)) (x : Nibble) (s : State) :
    WritesV x ((s.load x (op a b)).getV x) s (s.load x (op a b)) ∧
      ∀ k, k < 8 → ((s.load x (op a b)).getV x).getLsbD k = bit (a.getLsbD k) (b.getLsbD k) := by
  rw [s.getV_load_same]
  exact ⟨load_writesV x _ s, fun k _ => hop k⟩

/-- Settles O36: both are one load of V[X]; the sum of 7XNN is the machine's own. -/
theorem immediateLoadAndAdd : Obligations.ImmediateLoadAndAdd := by
  refine ⟨⟨encodes_XNN, encodes_XNN⟩, fun x nn s => ⟨⟨_, rfl, load_writesV x nn s⟩, _, rfl, ?_⟩⟩
  rw [← add_eq_ofNat]
  exact load_writesV x (s.getV x + nn) s

/-- Settles O37: each of the four is one load of V[X]. -/
theorem copyAndLogicKeepVf : Obligations.CopyAndLogicKeepVf :=
  ⟨⟨encodes_XY, encodes_XY, encodes_XY, encodes_XY⟩, fun x y s =>
    ⟨⟨_, rfl, load_writesV x (s.getV y) s⟩,
     ⟨_, rfl, load_writesV_bits (bit := (· || ·)) (fun _ => BitVec.getLsbD_or) x s⟩,
     ⟨_, rfl, load_writesV_bits (bit := (· && ·)) (fun _ => BitVec.getLsbD_and) x s⟩,
     ⟨_, rfl, load_writesV_bits (bit := (· != ·)) (fun _ => BitVec.getLsbD_xor) x s⟩⟩⟩

/-! ## The flag instructions (R156-R161, R164) -/

section
variable {x y : Nibble} {res : Vector Byte 16 → Byte} {flg : Vector Byte 16 → Bool} {s : State}

/-- FlagOp leaves the result and the flag of the registers before, or under FLAG_FIRST_SEQ the result of the registers with VF
already set. -/
theorem State.flagOp_flagResult : FlagResult s.cfg.vfOrder x (res s.v) (res (writeV s.v vf (flagByte (flg s.v))))
    (flagByte (flg s.v)) s (s.flagOp x res flg) := by
  unfold FlagResult
  refine ⟨fun hx => ⟨?_, readV_flagOp_vf x res flg s.v _ hx⟩, fun hx => ?_,
    fun k hkx hkf => readV_flagOp_other x res flg s.v _ hkx hkf⟩
  · rw [State.getV, State.flagOp_v]
    cases s.cfg.vfOrder with
    | flagLast => rw [readV_flagOp_flagLast, if_neg hx, if_pos rfl, if_neg (by decide)]
    | resultLast => rw [readV_flagOp_resultLast, if_pos rfl, if_neg (by decide)]
    | flagFirstSeq => rw [readV_flagOp_flagFirstSeq, if_pos rfl, if_pos rfl]
  · subst hx
    rw [State.getV, State.flagOp_v]
    cases s.cfg.vfOrder with
    | flagLast => rw [readV_flagOp_flagLast, if_pos rfl]
    | resultLast => rw [readV_flagOp_resultLast, if_pos rfl]
    | flagFirstSeq => rw [readV_flagOp_flagFirstSeq, if_pos rfl]

/-- An instruction whose meaning is one FlagOp, with the flag `f` and the number `r` of the two operands as its result:
FLAG_FIRST_SEQ reads the operands once VF holds the flag. -/
theorem flagOp_answers {i : Instr} {f : Byte} {r : Nat → Nat → Nat} (hexec : exec i s = .next (s.flagOp x res flg))
    (hf : flagByte (flg s.v) = f) (hr : ∀ v, res v = BitVec.ofNat 8 (r (readV v x).toNat (readV v y).toNat)) :
    ∃ t, exec i s = .next t ∧
      FlagResult s.cfg.vfOrder x (BitVec.ofNat 8 (r (s.getV x).toNat (s.getV y).toNat))
        (BitVec.ofNat 8 (r (s.getVAfterFlag f x).toNat (s.getVAfterFlag f y).toNat)) f s t ∧
      (∀ q, t.byteAt q = s.byteAt q) ∧ t = { s with v := t.v, pc := s.pc + 2 } := by
  have hseq : ∀ k, readV (writeV s.v vf f) k = s.getVAfterFlag f k := fun k => readV_writeV s.v vf k f
  have hresult : FlagResult s.cfg.vfOrder x _ _ _ s (s.flagOp x res flg) := State.flagOp_flagResult
  rw [hf, hr, hr, hseq, hseq] at hresult
  exact ⟨_, hexec, hresult, fun _ => rfl, rfl⟩

/-- A result that does not read VF, with a destination other than VF, is the same in every order. -/
theorem State.flagOp_away_from_vf (hx : x ≠ vf) (hres : ∀ b, res (writeV s.v vf b) = res s.v) :
    (s.flagOp x res flg).getV x = res s.v ∧ (s.flagOp x res flg).getV vf = flagByte (flg s.v) := by
  obtain ⟨h, -, -⟩ : FlagResult s.cfg.vfOrder x _ _ _ s (s.flagOp x res flg) := State.flagOp_flagResult
  rw [hres, ite_self] at h
  exact h hx

end

/-- Settles O38: each instruction is one FlagOp, whose flag is the comparison and whose result is the number of the statement. -/
theorem flagInstructionsInEveryOrder : Obligations.FlagInstructionsInEveryOrder := by
  refine ⟨⟨encodes_XY, encodes_XY, encodes_XY, encodes_XY, encodes_XY⟩, ?_⟩
  rintro i x y f r s a b a' b'
    (⟨rfl, hf, hr⟩ | ⟨rfl, hf, hr⟩ | ⟨rfl, hf, hr⟩ | ⟨rfl, hf, hr⟩ | ⟨rfl, hf, hr⟩)
  · exact flagOp_answers rfl (hf ▸ flagByte_decide _) fun _ => hr ▸ add_eq_ofNat ..
  · exact flagOp_answers rfl (hf ▸ flagByte_decide _) fun _ => hr ▸ sub_eq_ofNat ..
  · exact flagOp_answers rfl (hf ▸ flagByte_bitOutRight _) fun _ => hr ▸ ushiftRight_one_eq_ofNat _
  · exact flagOp_answers rfl (hf ▸ flagByte_decide _) fun _ => hr ▸ sub_eq_ofNat ..
  · exact flagOp_answers rfl (hf ▸ flagByte_bitOutLeft _) fun _ => hr ▸ shiftLeft_one_eq_ofNat _

/-- Settles O39: neither operand is VF, so the flag write changes no result. -/
theorem flagTableAwayFromVf : Obligations.FlagTableAwayFromVf := by
  intro x y s hx hy
  have hkx : ∀ b, readV (writeV s.v vf b) x = s.getV x := fun b => readV_writeV_of_ne s.v b hx
  have hky : ∀ b, readV (writeV s.v vf b) y = s.getV y := fun b => readV_writeV_of_ne s.v b hy
  refine ⟨⟨_, rfl, ?_⟩, ⟨_, rfl, ?_⟩, ⟨_, rfl, ?_⟩, ⟨_, rfl, ?_⟩, ⟨_, rfl, ?_⟩⟩
  · rw [← flagByte_decide]
    exact State.flagOp_away_from_vf hx fun b => congrArg₂ (· + ·) (hkx b) (hky b)
  · rw [← flagByte_decide]
    exact State.flagOp_away_from_vf hx fun b => congrArg₂ (· - ·) (hkx b) (hky b)
  · exact State.flagOp_away_from_vf hx fun b => congrArg (fun a : Byte => a >>> 1) (hkx b)
  · rw [← flagByte_decide]
    exact State.flagOp_away_from_vf hx fun b => congrArg₂ (· - ·) (hky b) (hkx b)
  · exact State.flagOp_away_from_vf hx fun b => congrArg (fun a : Byte => a <<< 1) (hkx b)

/-! ## The random byte (R162) -/

/-- Settles O40: one load of V[X], and in a CYCLE the random input is the CYCLE's own. -/
theorem randomByteIsMasked : Obligations.RandomByteIsMasked := by
  refine ⟨encodes_XNN, fun x nn s => ⟨⟨_, rfl, load_writesV x _ s⟩, fun rnd hruns => ?_⟩⟩
  obtain ⟨t, ht, hperform⟩ := perform_cycle_runs hruns rnd
  have hx : t.getV x = rnd &&& nn := by
    cases ht
    exact State.getV_load_same _ x _
  have hbits : ∀ k, k < 8 → nn.getLsbD k = false → (t.getV x).getLsbD k = false := fun k _ hk => by
    rw [hx, BitVec.getLsbD_and, hk, Bool.and_false]
  exact ⟨_, hperform, hx, hbits⟩

end Sys2Proof.Machine
end

section
/-! PROOFS. The index register and the memory transfers (44_index_memory.md): the range checks, ANNN, FX1E, FX29, FX33, FX55,
FX65. -/

namespace Sys2Proof.Machine

/-! ## The range checks (R184) -/

theorem checkRead_of_gt {a n : Nat} (h : 0xFFF < a + n - 1) : checkRead a n = some (.memoryOutOfBounds (max a 0x1000)) :=
  if_pos h

theorem checkWrite_of_gt {a n : Nat} (h : 0xFFF < a + n - 1) : checkWrite a n = some (.memoryOutOfBounds (max a 0x1000)) :=
  if_pos h

/-- The bounds are checked before the reserved region. -/
theorem checkWrite_of_reserved {a n : Nat} (hhigh : a + n - 1 ≤ 0xFFF) (hlow : a < 0x200) :
    checkWrite a n = some (.reservedWrite a) := by
  rw [checkWrite, if_neg (by omega), if_pos hlow]

theorem checkNibble_of_gt {b : Byte} (h : 0x0F < b.toNat) : checkNibble b = some .operandOutOfRange :=
  if_pos (c := b > 0x0F) (BitVec.lt_def.2 h)

/-- The address that a failed bounds check names is the lowest of its range above 0xFFF (20_memory.md R54). -/
theorem max_is_lowest_outOfBounds {a n : Nat} (hn : 1 ≤ n) (h : 0xFFF < a + n - 1) :
    ∃ k, k < n ∧ 0xFFF < a + k ∧ Cause.memoryOutOfBounds (max a 0x1000) = .memoryOutOfBounds (a + k) ∧
      ∀ j, j < k → a + j ≤ 0xFFF := by
  have hmax : max a 0x1000 = a + (max a 0x1000 - a) := by omega
  exact ⟨max a 0x1000 - a, by omega, by omega, congrArg _ hmax, fun j hj => by omega⟩

theorem last_le_iff_forall_le {a n m : Nat} (hn : 1 ≤ n) : a + n - 1 ≤ m ↔ ∀ k, k < n → a + k ≤ m := by
  refine ⟨fun h k hk => by omega, fun h => ?_⟩
  have hlast := h (n - 1) (by omega)
  omega

theorem forall_inRange_and_writable_iff {a n : Nat} (hn : 1 ≤ n) :
    (∀ k, k < n → a + k ≤ 0xFFF ∧ 0x200 ≤ a + k) ↔ a + n - 1 ≤ 0xFFF ∧ 0x200 ≤ a := by
  rw [last_le_iff_forall_le hn]
  exact ⟨fun h => ⟨fun k hk => (h k hk).1, (h 0 hn).2⟩, fun ⟨hhigh, hlow⟩ k hk => ⟨hhigh k hk, by omega⟩⟩

/-- Settles O15: the highest address decides the bounds and the lowest the reserved region. -/
theorem rangeChecksNameTheLowestBadAddress : Obligations.RangeChecksNameTheLowestBadAddress := by
  intro a n hn
  refine ⟨checkRead_eq_none.trans (last_le_iff_forall_le hn),
    checkWrite_eq_none.trans (forall_inRange_and_writable_iff hn).symm, fun c h => ?_, fun c h => ?_⟩
  · obtain ⟨hgt, rfl⟩ := checkRead_eq_some h
    exact max_is_lowest_outOfBounds hn hgt
  · obtain ⟨hgt, rfl⟩ | ⟨hle, hlow, rfl⟩ := checkWrite_eq_some h
    · exact .inl (max_is_lowest_outOfBounds hn hgt)
    · exact .inr ⟨(last_le_iff_forall_le hn).1 hle, hlow, rfl⟩

/-! ## A meaning behind its check -/

theorem checked_eq_next {chk : Option Cause} (h : chk = none) (op : Word) (s t : State) : checked chk op s t = .next t := by
  rw [h, checked_none]

theorem checked_faults {chk : Option Cause} {c : Cause} (h : chk = some c) (op : Word) (s t : State) :
    ∃ u, checked chk op s t = .next u ∧ Faults c.code op s u := by
  rw [h, checked_some]
  exact ⟨_, rfl, rfl⟩

/-! ## I set and added to (R180, R181) -/

theorem setI_advance_writesI (a : Word) (s : State) : WritesI a s (s.setI a).advance := ⟨fun _ => rfl, rfl⟩

theorem addrOperand_eq_ofNat (nnn : Addr) : addrOperand nnn = BitVec.ofNat 16 nnn.toNat :=
  BitVec.eq_of_toNat_eq (by rw [addrOperand_toNat, BitVec.toNat_ofNat]; omega)

theorem add_wordOperand_eq_ofNat (a : Word) (b : Byte) :
    a + wordOperand b = BitVec.ofNat 16 ((a.toNat + b.toNat) % 2 ^ 16) :=
  BitVec.eq_of_toNat_eq (by rw [BitVec.toNat_add, wordOperand_toNat, BitVec.toNat_ofNat, Nat.mod_mod])

/-- Settles O41: each of the two is one load of I, with the operand or with the machine's own sum. -/
theorem indexIsSetAndAdded : Obligations.IndexIsSetAndAdded := by
  refine ⟨⟨encodes_NNN, encodes_X⟩, fun nnn s => ⟨_, rfl, ?_⟩, fun x s => ⟨_, rfl, ?_⟩⟩
  · rw [← addrOperand_eq_ofNat]
    exact setI_advance_writesI _ s
  · rw [← add_wordOperand_eq_ofNat]
    exact setI_advance_writesI _ s

/-! ## The glyph pointer (R182) -/

/-- The font lies below 0x200 (10_state.md R34), so the address does not wrap. -/
theorem glyphAddr_toNat {cfg : Config} (hcfg : cfg.wellFormed = true) {b : Byte} (hb : b.toNat ≤ 0x0F) :
    (glyphAddr cfg b).toNat = cfg.fontBase + 5 * b.toNat := by
  have hfit : cfg.fontBase + 80 ≤ 0x200 := of_decide_eq_true hcfg
  rw [glyphAddr, BitVec.toNat_ofNat, Nat.mod_eq_of_lt (by omega)]

/-- Settles O42: a register up to 0x0F passes the check, and any other fails it. -/
theorem glyphPointerIsFontBasePlusFiveV : Obligations.GlyphPointerIsFontBasePlusFiveV := by
  refine ⟨encodes_X, fun x s hcfg => ⟨fun hle => ?_, fun hgt => ?_⟩⟩
  · exact ⟨_, checked_eq_next (checkNibble_eq_none.2 hle) .., setI_advance_writesI _ s, glyphAddr_toNat hcfg hle⟩
  · exact checked_faults (checkNibble_of_gt hgt) ..

/-! ## Bytes inside and outside a store -/

section
variable {s : State} {a : Nat} {bs : List Byte} (hm : Memory.wf s.cfg s.mem = true) (ha : a + bs.length ≤ 4096)
include hm ha

theorem State.byteAt_store_add {k : Nat} (hk : k < bs.length) : (s.store a bs).byteAt (a + k) = bs[k] := by
  rw [State.byteAt_store hm ha, if_pos (by omega), Nat.add_sub_cancel_left, List.getElem?_eq_getElem hk, Option.getD_some]

theorem State.byteAt_store_of_outside {q : Nat} (hq : q < a ∨ a + bs.length ≤ q) :
    (s.store a bs).byteAt q = s.byteAt q := by
  rw [State.byteAt_store hm ha, if_neg (by omega)]

end

/-! ## The decimal digits (R185) -/

/-- Settles O43: one store of three bytes, the digits of V[X] from the hundreds down. -/
theorem bcdStoresThreeDigits : Obligations.BcdStoresThreeDigits := by
  refine ⟨encodes_X, fun x s hm => ⟨fun (hhigh : s.base + 2 ≤ 0xFFF) hlow => ?_, fun hgt => ?_, fun hlow => ?_⟩⟩
  · have hfit : s.base + (bcdDigits (s.getV x)).length ≤ 4096 := by rw [length_bcdDigits]; omega
    have hdigit (k : Nat) (hk : k < 3) :
        (s.store s.base (bcdDigits (s.getV x))).byteAt (s.base + k) = (bcdDigits (s.getV x))[k] :=
      State.byteAt_store_add hm hfit hk
    refine ⟨_, checked_eq_next (checkWrite_eq_none.2 ⟨hhigh, hlow⟩) .., ?_, ?_, ?_,
      fun _ => State.byteAt_store_of_outside hm hfit, rfl⟩
    · exact (congrArg BitVec.toNat (hdigit 0 (by decide))).trans BitVec.toNat_udiv
    · exact (congrArg BitVec.toNat (hdigit 1 (by decide))).trans (by simp [bcdDigits])
    · exact (congrArg BitVec.toNat (hdigit 2 (by decide))).trans BitVec.toNat_umod
  · exact checked_faults (checkWrite_of_gt hgt) ..
  · exact checked_faults (checkWrite_of_reserved (by omega) hlow) ..

/-! ## I after a transfer of registers (R186, R187) -/

theorem State.advanceI_iReg_toNat (s : State) (x : Nibble) : (s.advanceI x).iReg.toNat =
    if s.cfg.iAdvance then (s.iReg.toNat + x.toNat + 1) % 2 ^ 16 else s.iReg.toNat := by
  rw [State.advanceI_iReg, apply_ite BitVec.toNat, BitVec.toNat_add, BitVec.toNat_ofNat, Nat.add_mod_mod, ← Nat.add_assoc]

theorem State.advanceI_eq (s : State) (x : Nibble) : s.advanceI x = { s with iReg := (s.advanceI x).iReg } := by
  unfold State.advanceI
  split <;> rfl

/-- ADVANCE after the update of I writes I and PC, and nothing else. -/
theorem State.advanceI_advance_eq (s : State) (x : Nibble) :
    (s.advanceI x).advance = { s with iReg := (s.advanceI x).advance.iReg, pc := s.pc + 2 } :=
  congrArg State.advance (s.advanceI_eq x)

theorem State.byteAt_advanceI_advance (s : State) (x : Nibble) (q : Nat) :
    (s.advanceI x).advance.byteAt q = s.byteAt q :=
  State.byteAt_congr (by simp) (by simp) q

/-! ## Registers stored (R186) -/

/-- Settles O44: one store of V0..V[X]; ADVANCE and the update of I touch no byte. -/
theorem storeWritesRegistersUpToX : Obligations.StoreWritesRegistersUpToX := by
  refine ⟨encodes_X, fun x s hm => ⟨fun (hhigh : s.base + x.toNat ≤ 0xFFF) hlow => ?_, fun hgt => ?_, fun hlow => ?_⟩⟩
  · have hlen := s.length_regsUpTo x
    refine ⟨_, exec_ldMemVx_of_writable hhigh hlow, fun r hr => ?_, fun q hq => ?_, State.advanceI_iReg_toNat _ x,
      (State.advanceI_advance_eq _ x).trans (by simp)⟩
    · exact (State.byteAt_advanceI_advance _ x _).trans (byteAt_store_regsUpTo hm hhigh hr)
    · have hout : q < s.base ∨ s.base + (s.regsUpTo x).length ≤ q := hlen ▸ hq
      exact (State.byteAt_advanceI_advance _ x q).trans (State.byteAt_store_of_outside hm (by omega) hout)
  · exact checked_faults (checkWrite_of_gt hgt) ..
  · exact checked_faults (checkWrite_of_reserved (by omega) hlow) ..

/-! ## Registers loaded (R187) -/

theorem readV_loadRegs (s : State) (a : Nat) (x r : Nibble) : readV (s.loadRegs a (x.toNat + 1)) r =
    if r.toNat ≤ x.toNat then s.byteAt (a + r.toNat) else s.getV r := by
  simp only [← Nat.lt_succ_iff]
  exact s.getElem_loadRegs a (x.toNat + 1) r.toNat r.isLt

/-- Settles O45: one load of the register file from memory as it was, behind CheckRead only. -/
theorem loadReadsRegistersUpToX : Obligations.LoadReadsRegistersUpToX := by
  refine ⟨encodes_X, fun x s => ⟨fun hhigh => ?_, fun hgt => ?_⟩⟩
  · refine ⟨_, checked_eq_next (checkRead_eq_none.2 hhigh) .., fun r => ?_, State.byteAt_advanceI_advance _ x,
      State.advanceI_iReg_toNat _ x, (State.advanceI_advance_eq _ x).trans (by simp)⟩
    · rw [State.getV_advance, State.getV, State.advanceI_v]
      exact readV_loadRegs s s.base x r
  · exact checked_faults (checkRead_of_gt hgt) ..

end Sys2Proof.Machine
end

section
/-! PROOFS. The display (45_display.md): 00E0, what writes the display, DXYN as a toggle of the cells its sprite hits. -/

namespace Sys2Proof.Machine

/-! ## The cleared display (R200) -/

theorem Display.cell_replicate_zero (x y : Nat) : Display.cell (Vector.replicate 32 0) x y = false := by
  unfold Display.cell
  rw [Vector.getElem?_replicate]
  split <;> exact BitVec.getLsbD_zero

/-- Settles O47: the display 00E0 leaves has no cell on. -/
theorem clearScreenClearsEveryCell : Obligations.ClearScreenClearsEveryCell :=
  ⟨encodes_full, fun _ =>
    ⟨_, rfl, fun x y _ _ => Display.cell_replicate_zero x y, fun _ => rfl, fun _ => rfl, rfl⟩⟩

/-! ## What writes the display (R204) -/

theorem tick_keepsDisplay (s : State) : (tick s).1.display = s.display := by
  unfold tick
  split <;> rfl

theorem setKey_keepsDisplay (k : Byte) (p : Bool) (s : State) : (setKey k p s).1.display = s.display := by
  rcases Nat.lt_or_ge k.toNat 16 with hk | hk
  · rw [setKey_accepted p hk]
    split <;> rfl
  · rw [setKey_rejected p hk]

/-- An accepted LOAD leaves the display of reset (70_reset_and_hazards.md R282). -/
theorem cell_load_accepted {image : List Byte} (h : image.length ≤ 3584) (s : State) (x y : Nat) :
    (load image s).1.cell x y = false := by
  rw [load_accepted h]
  exact Display.cell_replicate_zero x y

theorem perform_display_ne {c : Command} {s t : State} (h : perform c s = .next t) (hne : t.display ≠ s.display) :
    (∃ image, c = .load image ∧ image.length ≤ 3584 ∧ ∀ x y, t.cell x y = false) ∨
    ((∃ r, c = .cycle r) ∧ (s.Runs .cls ∨ ∃ x y n, s.Runs (.drw x y n))) := by
  cases c with
  | cycle r =>
    obtain ⟨u, hu, rfl⟩ := runCycle_cases h
    exact .inr ⟨⟨r, rfl⟩, (cycle_ioWrittenBy hu).display hne⟩
  | tick => cases h; exact absurd (tick_keepsDisplay s) hne
  | setKey k p => cases h; exact absurd (setKey_keepsDisplay k p s) hne
  | load image =>
    cases h
    rcases Nat.lt_or_ge 3584 image.length with hl | hl
    · rw [load_rejected hl] at hne
      exact absurd rfl hne
    · exact .inl ⟨image, rfl, hl, cell_load_accepted hl s⟩

theorem State.nextCommand_display (s : State) : s.nextCommand.2.display = s.display := by
  obtain ⟨-, hn⟩ | ⟨c, cs, -, hn⟩ := s.nextCommand_cases <;> rw [hn]

/-- Settles O27: taking the command off the queue keeps the display, and of the commands only LOAD and CYCLE write it. -/
theorem displayChangesOnlyByDrawingAndLoad : Obligations.DisplayChangesOnlyByDrawingAndLoad := by
  intro s t h hne
  rw [← s.nextCommand_display] at hne
  refine (perform_display_ne h hne).imp_right ?_
  rintro ⟨hc, hcls | ⟨x, y, n, hdrw⟩⟩
  · exact .inl ⟨hc, State.runs_nextCommand.1 hcls⟩
  · exact .inr ⟨x, y, n, hc, State.runs_nextCommand.1 hdrw⟩

/-! ## The range check of DXYN (R202) -/

section
variable {a : Nat} {n : Nibble}

theorem checkSprite_of_ne_zero (hn : n.toNat ≠ 0) : checkSprite a n = checkRead a n.toNat :=
  if_neg fun h => hn (congrArg BitVec.toNat h)

theorem checkSprite_of_inRange (h : n.toNat = 0 ∨ a + n.toNat - 1 ≤ 0xFFF) : checkSprite a n = none := by
  by_cases hn : n.toNat = 0
  · exact if_pos (BitVec.eq_of_toNat_eq hn)
  · rw [checkSprite_of_ne_zero hn]
    exact checkRead_eq_none.2 (h.resolve_left hn)

theorem checkSprite_of_gt (hn : n.toNat ≠ 0) (h : 0xFFF < a + n.toNat - 1) :
    checkSprite a n = some (.memoryOutOfBounds (max a 0x1000)) :=
  (checkSprite_of_ne_zero hn).trans (checkRead_of_gt h)

end

/-! ## DXYN (R202) -/

section
variable (s : State) (x y n : Nibble)

/-- DXYN toggles the cell (px, py): `State.spriteHits` at the coordinates in V[X] and V[Y]. -/
def State.drawHits (px py : Nat) : Bool :=
  s.spriteHits ((s.getV x).toNat % 64) ((s.getV y).toNat % 32) n.toNat px py

/-- DXYN switches off a cell that was on. -/
def State.DrawCollides : Prop :=
  ∃ px py, px < 64 ∧ py < 32 ∧ s.drawHits x y n px py = true ∧ s.cell px py = true

/-- The state after a DXYN that passes its check. -/
def State.drawn : State := (s.setCanvas (s.drawSprite x y n)).advance

variable {s x y n}

theorem exec_drw_of_inRange (h : n.toNat = 0 ∨ s.base + n.toNat - 1 ≤ 0xFFF) :
    exec (.drw x y n) s = .next (s.drawn x y n) :=
  checked_eq_next (checkSprite_of_inRange h) ..

theorem State.cell_drawn {px py : Nat} (hx : px < 64) (hy : py < 32) :
    (s.drawn x y n).cell px py = (s.cell px py ^^ s.drawHits x y n px py) :=
  cell_drawRows s (s.display, false) (Nat.mod_lt _ (by decide)) (Nat.mod_lt _ (by decide)) hx hy n.toNat n.isLt.le

theorem State.collision_drawSprite : (s.drawSprite x y n).2 = true ↔ s.DrawCollides x y n :=
  (collision_drawRows s (s.display, false) (Nat.mod_lt _ (by decide)) (Nat.mod_lt _ (by decide)) n.toNat n.isLt.le).trans
    (or_iff_right Bool.false_ne_true)

theorem State.getV_vf_drawn : (s.drawn x y n).getV vf = flagByte (s.drawSprite x y n).2 :=
  readV_writeV_same ..

theorem State.getV_vf_drawn_of_collides (h : s.DrawCollides x y n) : (s.drawn x y n).getV vf = 1 := by
  rw [State.getV_vf_drawn, State.collision_drawSprite.2 h]
  rfl

theorem State.getV_vf_drawn_of_not_collides (h : ¬s.DrawCollides x y n) : (s.drawn x y n).getV vf = 0 := by
  rw [State.getV_vf_drawn, Bool.eq_false_iff.2 (mt State.collision_drawSprite.1 h)]
  rfl

theorem State.getV_vf_drawn_eq_one_iff : (s.drawn x y n).getV vf = 1 ↔ s.DrawCollides x y n := by
  refine ⟨fun h => by_contra fun hc => ?_, State.getV_vf_drawn_of_collides⟩
  rw [State.getV_vf_drawn_of_not_collides hc] at h
  exact absurd h (by decide)

theorem State.getV_drawn_of_ne {r : Nibble} (hr : r ≠ vf) : (s.drawn x y n).getV r = s.getV r :=
  readV_writeV_of_ne s.v _ hr

end

/-- Settles O48: the canvas DXYN draws, cell by cell, with the collision in VF; or the fault of its range check. -/
theorem drawTogglesTheSpriteAndSetsCollision : Obligations.DrawTogglesTheSpriteAndSetsCollision := by
  refine ⟨encodes_XYN, fun x y n s => ⟨fun hin => ?_, fun hn hgt => ?_⟩⟩
  · exact ⟨_, exec_drw_of_inRange hin, fun _ _ => State.cell_drawn, State.getV_vf_drawn_of_collides,
      State.getV_vf_drawn_of_not_collides, fun _ => State.getV_drawn_of_ne, fun _ => rfl, rfl⟩
  · exact checked_faults (checkSprite_of_gt hn hgt) ..

/-! ## Drawing twice (95_test_vectors.md S6) -/

section
variable {s : State} {x y n : Nibble} (hx : x ≠ vf) (hy : y ≠ vf)
include hx hy

/-- With coordinates outside VF a second DXYN falls on the cells of the first. -/
theorem State.drawHits_drawn (px py : Nat) : (s.drawn x y n).drawHits x y n px py = s.drawHits x y n px py := by
  rw [State.drawHits, State.getV_drawn_of_ne hx, State.getV_drawn_of_ne hy]
  rfl

theorem State.display_drawn_drawn : ((s.drawn x y n).drawn x y n).display = s.display := by
  refine Display.ext_cell fun px py hpx hpy => ?_
  calc ((s.drawn x y n).drawn x y n).cell px py
      = ((s.cell px py ^^ s.drawHits x y n px py) ^^ s.drawHits x y n px py) := by
        rw [State.cell_drawn hpx hpy, State.cell_drawn hpx hpy, State.drawHits_drawn hx hy]
    _ = s.cell px py := by rw [Bool.xor_assoc, Bool.xor_self, Bool.xor_false]

/-- On an empty display the cells on after a DXYN are those it hits, so a second one collides when there is one. -/
theorem State.drawCollides_drawn_iff (hempty : ∀ px py, px < 64 → py < 32 → s.cell px py = false) :
    (s.drawn x y n).DrawCollides x y n ↔ ∃ px py, px < 64 ∧ py < 32 ∧ (s.drawn x y n).cell px py = true := by
  have hcell {px py : Nat} (hpx : px < 64) (hpy : py < 32) :
      (s.drawn x y n).drawHits x y n px py = (s.drawn x y n).cell px py := by
    rw [State.drawHits_drawn hx hy, State.cell_drawn hpx hpy, hempty px py hpx hpy, Bool.false_xor]
  constructor
  · rintro ⟨px, py, hpx, hpy, -, hon⟩
    exact ⟨px, py, hpx, hpy, hon⟩
  · rintro ⟨px, py, hpx, hpy, hon⟩
    exact ⟨px, py, hpx, hpy, (hcell hpx hpy).trans hon, hon⟩

end

/-- Settles O49: the second DXYN toggles the cells of the first back, and no cell was on before the first. -/
theorem drawingTwiceRestoresTheDisplay : Obligations.DrawingTwiceRestoresTheDisplay := by
  intro x y n s hx hy hin hempty
  have hfirst : ¬s.DrawCollides x y n := fun ⟨px, py, hpx, hpy, _, hon⟩ => nomatch (hempty px py hpx hpy).symm.trans hon
  exact ⟨_, _, exec_drw_of_inRange hin, exec_drw_of_inRange (s := s.drawn x y n) hin, State.display_drawn_drawn hx hy,
    State.getV_vf_drawn_of_not_collides hfirst,
    State.getV_vf_drawn_eq_one_iff.trans (State.drawCollides_drawn_iff hx hy hempty)⟩

end Sys2Proof.Machine
end

section
/-! PROOFS. Keys and timers (46_timers_keys.md): the key skips, the timer transfers, SET_KEY as a command, the wait of FX0A. -/

namespace Sys2Proof.Machine

/-! ## The key skips (R210, R211) -/

/-- A register up to 0x0F names a key. -/
theorem State.keyAt_of_lt {s : State} {b : Byte} (h : b.toNat < 16) : s.keyAt b = s.keys[b.toNat] := by
  rw [State.keyAt, Vector.getElem?_eq_getElem h, Option.getD_some]

/-- Both key skips have one check, and behind it each is a skip on the level of the key. -/
theorem checked_checkNibble_skipIf {b : Byte} {c : Bool} {p : Prop} [Decidable p] (hle : b.toNat ≤ 0x0F) (hc : c = true ↔ p)
    (op : Word) (s : State) :
    ∃ t, checked (checkNibble b) op s (s.skipIf c) = .next t ∧ WritesPc (if p then s.pc + 4 else s.pc + 2) s t :=
  ⟨_, checked_eq_next (checkNibble_eq_none.2 hle) .., skipIf_writesPc hc s⟩

/-- Settles O35: V[X] passes the check exactly when it names a key, and the skip is then on that key's level. -/
theorem keySkipsTestTheKeyLevel : Obligations.KeySkipsTestTheKeyLevel := by
  refine ⟨⟨encodes_X, encodes_X⟩, fun x s => ⟨fun hlt => ?_, fun hgt => ?_⟩⟩
  · have hkey := s.keyAt_of_lt hlt
    have hle := Nat.le_of_lt_succ hlt
    exact ⟨checked_checkNibble_skipIf hle (by rw [hkey]) _ s,
      checked_checkNibble_skipIf hle (by rw [hkey, Bool.not_eq_true']) _ s⟩
  · exact ⟨checked_faults (checkNibble_of_gt hgt) .., checked_faults (checkNibble_of_gt hgt) ..⟩

/-! ## The timer transfers (R212, R216, R217) -/

/-- Settles O50: one load of V[X], and two writes of a timer behind which `sound_active` reads the new ST. -/
theorem timerTransfers : Obligations.TimerTransfers :=
  ⟨⟨encodes_X, encodes_X, encodes_X⟩, fun x s =>
    ⟨⟨_, rfl, load_writesV x s.dt s⟩, ⟨_, rfl, fun _ => rfl, rfl⟩, ⟨_, rfl, fun _ => rfl, rfl, rfl⟩⟩⟩

/-! ## SET_KEY as a command (R214, 47_interface.md R236) -/

/-- The state a qualifying press of the key `k` leaves: the key is latched and its level set. -/
def State.pressed (k : Byte) (h : k.toNat < 16) (s : State) : State :=
  { s with latchKey := BitVec.ofNat 4 k.toNat, latchValid := true, keys := s.keys.set k.toNat true, resp := .ok }

section
variable {s : State} {k : Byte} {p : Bool}

theorem perform_setKey_of_qualifies (hk : k.toNat < 16) (hq : s.qualifies k true = true) :
    perform (.setKey k true) s = .next (s.pressed k hk) := by
  rw [perform, setKey_accepted true hk, if_pos hq, State.setKeyLevel_of_lt true hk]
  rfl

/-- Any other SET_KEY sets the level of its key only. -/
theorem perform_setKey_of_not_qualifies (hk : k.toNat < 16) (hq : ¬s.qualifies k p = true) :
    perform (.setKey k p) s = .next { s with keys := s.keys.set k.toNat p, resp := .ok } := by
  rw [perform, setKey_accepted p hk, if_neg hq, State.setKeyLevel_of_lt p hk]
  rfl

/-- A key held already makes no transition: its press does not qualify, and K stays as it is. -/
theorem perform_setKey_of_held (hk : k.toNat < 16) (hheld : s.keys[k.toNat] = true) :
    perform (.setKey k true) s = .next { s with resp := .ok } := by
  have hq : ¬s.qualifies k true = true := fun h => by
    obtain ⟨-, hup, -⟩ := (State.qualifies_iff hk).1 h
    cases hheld.symm.trans hup
  have hkeys : s.keys.set k.toNat true = s.keys := by rw [← hheld, Vector.set_getElem_self]
  rw [perform_setKey_of_not_qualifies hk hq, hkeys]

end

/-! ## The wait of FX0A (R213, R101) -/

/-- The state FX0A leaves: the core waits with no key latched, PC unchanged. -/
def State.startWait (x : Nibble) (s : State) : State := { s with awaiting := true, waitReg := x, latchValid := false }

theorem exec_ldVxK (x : Nibble) (s : State) : exec (.ldVxK x) s = .next (s.startWait x) := rfl

/-- Settles O51: SET_KEY from the state FX0A leaves, and the wait step with and without the key it latches. -/
theorem waitForKeyStartsAndCompletes : Obligations.WaitForKeyStartsAndCompletes := by
  refine ⟨encodes_X, fun x s hh => ⟨s.startWait x, exec_ldVxK x s, fun _ => rfl, rfl, fun rnd => ?_,
    fun k hk hheld => perform_setKey_of_held hk hheld, fun k rnd hk hup => ?_⟩⟩
  · exact (waitStepCompletesOrChangesNothing (s.startWait x) rnd hh rfl).1 rfl
  · have hq : (s.startWait x).qualifies k true = true := (State.qualifies_iff hk).2 ⟨rfl, hup, rfl, rfl⟩
    obtain ⟨w, hw, hkey, -, -, hframe⟩ :=
      (waitStepCompletesOrChangesNothing ((s.startWait x).pressed k hk) rnd hh rfl).2 rfl
    refine ⟨_, w, perform_setKey_of_qualifies hk hq, rfl, hw, BitVec.eq_of_toNat_eq (hkey.trans ?_), ?_, ?_⟩
    · exact (BitVec.toNat_ofNat ..).trans (Nat.mod_eq_of_lt hk)
    · rw [hframe]; rfl
    · rw [hframe]

end Sys2Proof.Machine
end

section
/-! PROOFS. The host interface (47_interface.md): the reset state, LOAD, SET_KEY, that every step answers, the output ports. -/

namespace Sys2Proof.Machine

/-! ## The reset state (70_reset_and_hazards.md R280) -/

theorem reset_getV (x : Nibble) : State.reset.getV x = 0x00 := Vector.getElem_replicate x.isLt

theorem reset_stack {j : Nat} (h : j < 16) : State.reset.stack[j] = 0x0000 := Vector.getElem_replicate h

theorem reset_keys {k : Nat} (h : k < 16) : State.reset.keys[k] = false := Vector.getElem_replicate h

theorem reset_cell (x y : Nat) : State.reset.cell x y = false := Display.cell_replicate_zero x y

/-! ## LOAD (R231) -/

section
variable {s : State} {image : List Byte}

theorem perform_load_rejected (h : 3584 < image.length) :
    perform (.load image) s = .next { s with resp := .rejected .loadError } := by
  rw [perform, load_rejected h]
  rfl

/-- The state an accepted LOAD leaves: Reset(), then the copy (70_reset_and_hazards.md R282). -/
def State.loaded (image : List Byte) (s : State) : State := (s.coreReset.store progBase image).respond .ok

theorem perform_load_accepted (h : image.length ≤ 3584) : perform (.load image) s = .next (s.loaded image) := by
  rw [perform, load_accepted h]
  rfl

theorem State.byteAt_loaded_image (h : image.length ≤ 3584) {j : Nat} (hj : j < image.length) :
    (s.loaded image).byteAt (0x200 + j) = image[j] :=
  State.byteAt_store_add (s := s.coreReset) Memory.wf_nil (by rw [progBase]; omega) hj

/-- Outside the image a byte reads as reset leaves it. -/
theorem State.byteAt_loaded_outside (h : image.length ≤ 3584) {q : Nat} (hq : q < 0x200 ∨ 0x200 + image.length ≤ q) :
    (s.loaded image).byteAt q = unlistedByte s.cfg q :=
  (State.byteAt_load h q).trans (if_neg (by omega))

/-- The font lies below the image (10_state.md R34). -/
theorem State.byteAt_loaded_font (h : image.length ≤ 3584) (hcfg : s.cfg.wellFormed = true) {g j : Nat} (hg : g < 16)
    (hj : j < 5) : (s.loaded image).byteAt (s.cfg.fontBase + 5 * g + j) = s.cfg.fontGlyphs[g][j] := by
  have hfit : s.cfg.fontBase + 80 ≤ 0x200 := of_decide_eq_true hcfg
  rw [State.byteAt_loaded_outside h (by omega), unlistedByte_font g j hg hj]

end

/-- Settles O19: memory is the image over what reset leaves, and every other field is reset's or kept by `State.coreReset`. -/
theorem loadResetsAndCopiesTheImage : Obligations.LoadResetsAndCopiesTheImage := by
  refine fun s image => ⟨perform_load_rejected, fun h => ⟨s.loaded image, perform_load_accepted h, ?_, ?_, ?_, reset_getV,
    fun _ => reset_stack, reset_cell, ?_⟩⟩
  · exact fun _ => State.byteAt_loaded_image h
  · exact fun q hq hfont => (State.byteAt_loaded_outside h hq).trans (unlistedByte_outside_font hfont)
  · exact fun hcfg _ _ => State.byteAt_loaded_font h hcfg
  · simp [State.loaded, State.reset]

/-! ## SET_KEY (R236, R237) -/

theorem perform_setKey_rejected {s : State} {k : Byte} (p : Bool) (h : 15 < k.toNat) :
    perform (.setKey k p) s = .next { s with resp := .rejected .invalidKeyIndex } := by
  rw [perform, setKey_rejected p h]
  rfl

/-- Settles O17: the index is checked first, and then the press qualifies or it does not (46_timers_keys.md R214). -/
theorem setKeySetsTheKeyAndLatches : Obligations.SetKeySetsTheKeyAndLatches := by
  refine fun s k p => ⟨perform_setKey_rejected p, fun hk => ⟨fun hq => ?_, fun hq => ?_⟩⟩
  · obtain rfl : p = true := hq.1
    exact perform_setKey_of_qualifies hk ((State.qualifies_iff hk).2 hq)
  · exact perform_setKey_of_not_qualifies hk (mt (State.qualifies_iff hk).1 hq)

/-! ## Every command has a response (R230) -/

/-- Settles O20: the step performs the command it took off the queue, or the CYCLE it drew. -/
theorem everyStepAnswersNext : Obligations.EveryStepAnswersNext := fun s =>
  perform_answers s.nextCommand.1 s.nextCommand.2

/-! ## The output ports (R238-R241) -/

theorem State.displayBit_row_major (s : State) {x : Nat} (hx : x < 64) (y : Nat) : s.displayBit (y * 64 + x) = s.cell x y := by
  have hcol : (y * 64 + x) % 64 = x := by omega
  have hrow : (y * 64 + x) / 64 = y := by omega
  rw [State.displayBit, hcol, hrow]

/-- The port lists the 2048 bits of the view in order. -/
theorem outPorts_display_getElem? (s : State) {i : Nat} (h : i < 2048) : s.outPorts.display[i]? = some (s.displayBit i) := by
  simp [State.outPorts, h]

/-- Settles O52: the display bit by its row and column, the other ports by their definitions. -/
theorem outputPortsShowTheState : Obligations.OutputPortsShowTheState := by
  refine fun s => ⟨?_, fun x y hx hy => ?_, ⟨rfl, rfl, bne_iff_ne⟩, rfl, rfl, rfl, rfl⟩
  · simp [State.outPorts]
  · rw [outPorts_display_getElem? s (by omega), s.displayBit_row_major hx]

end Sys2Proof.Machine
end

section
/-! PROOFS. Exceptions (60_exceptions.md): precise faults and their causes, the halted core, TICK. -/

namespace Sys2Proof.Machine

/-! ## Faults are precise (R251, R252) -/

theorem eq_of_decode_unknown {op w : Word} (h : decode op = .unknown w) : w = op := by
  obtain hu | ⟨i, hi, -⟩ := decode_cases op
  · cases h.symm.trans hu; rfl
  · cases h.symm.trans hi

/-- A CYCLE that halts the core is one fault entry, which records the fetched word, or 0x0000 when there is none. -/
theorem cycle_eq_takeFault {s t : State} (hs : s.halted = false) (h : cycle s = .next t) (ht : t.halted = true) :
    ∃ c, t = s.takeFault c (s.fetch.getD 0x0000) := by
  obtain ⟨hh, -⟩ | ⟨-, -, rfl⟩ | ⟨-, -, hf, rfl⟩ | ⟨op, w, -, -, hf, hd, rfl⟩ | ⟨op, i, -, -, hf, hd, he⟩ := cycle_cases h
  · cases hs.symm.trans hh
  · cases hs.symm.trans (s.waitStep_halted.symm.trans ht)
  · exact ⟨.fetchOutOfBounds, by rw [hf]; rfl⟩
  · obtain rfl := eq_of_decode_unknown hd
    exact ⟨.unknownOpcode, by rw [hf]; rfl⟩
  · obtain ⟨c, -, rfl⟩ | hkept := exec_fault_cases he
    · exact ⟨c, by rw [hf, encode_of_decode hd]; rfl⟩
    · cases hs.symm.trans (hkept.halted.symm.trans ht)

theorem Cause.code_mem (c : Cause) : c.code ∈ ([0x01, 0x02, 0x03, 0x04, 0x05, 0x06, 0x07] : List Byte) := by
  cases c <;> simp [Cause.code]

/-- Settles O13: the CYCLE is one fault entry, and its response reads the registers that entry wrote. -/
theorem faultsArePrecise : Obligations.FaultsArePrecise := by
  intro s t rnd hs h ht
  obtain ⟨u, hu, rfl⟩ := runCycle_cases h
  obtain ⟨c, rfl⟩ := cycle_eq_takeFault (s := { s with rnd := rnd }) hs hu ht
  exact ⟨rfl, c.code_mem⟩

/-! ## Which instructions fault (R250) -/

theorem checkSprite_eq_some {a : Nat} {n : Nibble} {c : Cause} (h : checkSprite a n = some c) :
    n.toNat ≠ 0 ∧ 0xFFF < a + n.toNat - 1 ∧ c = .memoryOutOfBounds (max a 0x1000) := by
  have hn : n.toNat ≠ 0 := fun hn => by
    cases h.symm.trans (checkSprite_of_inRange (.inl hn))
  exact ⟨hn, checkRead_eq_some ((checkSprite_of_ne_zero hn).symm.trans h)⟩

/-- The codes of a failed CheckWrite (44_index_memory.md R184). -/
theorem code_of_checkWrite_eq_some {a n : Nat} {c : Cause} (h : checkWrite a n = some c) :
    0xFFF < a + n - 1 ∧ c.code = 0x05 ∨ a < 0x200 ∧ c.code = 0x06 := by
  obtain ⟨hgt, rfl⟩ | ⟨-, hlow, rfl⟩ := checkWrite_eq_some h
  · exact .inl ⟨hgt, rfl⟩
  · exact .inr ⟨hlow, rfl⟩

theorem code_of_checkNibble_eq_some {b : Byte} {c : Cause} (h : checkNibble b = some c) :
    0x0F < b.toNat ∧ c.code = 0x07 := by
  obtain ⟨hgt, rfl⟩ := checkNibble_eq_some h
  exact ⟨hgt, rfl⟩

/-- Settles O14: an instruction takes the fault of its own check or none, and each check fails on its cause only. -/
theorem onlyTheListedInstructionsFault : Obligations.OnlyTheListedInstructionsFault := by
  intro i s t hs h
  obtain ⟨c, hc, rfl⟩ | ⟨hhalted, hcode, hpc, hop⟩ := exec_fault_cases h
  · refine ⟨nofun, fun _ => ?_⟩
    cases i with
    | call nnn => obtain ⟨hsp, rfl⟩ := hc; exact .inl ⟨nnn, rfl, hsp, rfl⟩
    | ret => obtain ⟨hsp, rfl⟩ := hc; exact .inr (.inl ⟨rfl, hsp, rfl⟩)
    | drw x y n =>
      obtain ⟨hn, hgt, rfl⟩ := checkSprite_eq_some hc
      exact .inr (.inr (.inl ⟨x, y, n, rfl, hn, hgt, rfl⟩))
    | ldBVx x => exact .inr (.inr (.inr (.inl ⟨x, rfl, code_of_checkWrite_eq_some hc⟩)))
    | ldMemVx x => exact .inr (.inr (.inr (.inr (.inl ⟨x, rfl, code_of_checkWrite_eq_some hc⟩))))
    | ldVxMem x =>
      obtain ⟨hgt, rfl⟩ := checkRead_eq_some hc
      exact .inr (.inr (.inr (.inr (.inr (.inl ⟨x, rfl, hgt, rfl⟩)))))
    | skp x | sknp x | ldFVx x =>
      exact .inr (.inr (.inr (.inr (.inr (.inr ⟨x, by simp, code_of_checkNibble_eq_some hc⟩)))))
    | _ => exact hc.elim
  · exact ⟨fun _ => ⟨hcode, hpc, hop⟩, fun ht => nomatch hs.symm.trans (hhalted.symm.trans ht)⟩

/-! ## The halted core (R254) and TICK (R262) -/

theorem perform_tick_halted {s : State} (h : s.halted = true) :
    perform .tick s = .next { s with resp := .fault s.faultCode s.faultPc s.faultOp } := by
  rw [perform, tick_halted h]
  rfl

/-- Settles O16, command by command: a core that does not wait has no qualifying press. -/
theorem haltedCoreStaysHalted : Obligations.HaltedCoreStaysHalted := by
  refine fun s hh ha => ⟨runCycle_halted hh, perform_tick_halted hh, fun k p hk => ?_, fun image h => ?_,
    fun _ => perform_load_rejected⟩
  · refine perform_setKey_of_not_qualifies hk fun hq => ?_
    obtain ⟨-, -, hawaits, -⟩ := (State.qualifies_iff hk).1 hq
    cases ha.symm.trans hawaits
  · exact ⟨_, perform_load_accepted h, rfl, rfl⟩

/-- Settles O18: each timer is counted down on its own. -/
theorem tickCountsBothTimersDown : Obligations.TickCountsBothTimersDown := by
  refine fun s => ⟨fun hh => ?_, perform_tick_halted⟩
  have htick : perform .tick s = .next { s with dt := countDown s.dt, st := countDown s.st, resp := .ok } := by
    rw [perform, tick_running hh]
    rfl
  exact ⟨_, htick, countDown_toNat s.dt, countDown_toNat s.st, rfl⟩

end Sys2Proof.Machine
end

section
/-! PROOFS. Construction and the end of a run (70_reset_and_hazards.md R281, R289). -/

namespace Sys2Proof.Machine

/-! ## Construction (R281) -/

theorem reset_byteAt (q : Nat) : State.reset.byteAt q = unlistedByte State.reset.cfg q := Memory.read_nil q

/-- The word at 0x200 lies above the font, where reset leaves zeros (40_cycle.md R109). -/
theorem reset_fetch : State.reset.fetch = some 0x0000 := by decide

/-- Settles O22: reset lists no byte of memory, and the word 0x0000 it fetches is Unknown. -/
theorem constructionIsTheResetState : Obligations.ConstructionIsTheResetState := by
  refine ⟨⟨rfl, rfl, rfl, rfl, rfl⟩, reset_getV, fun _ => reset_stack, reset_cell, fun _ => reset_keys, ?_, ?_,
    ⟨rfl, rfl, rfl, rfl⟩, ⟨rfl, rfl, rfl, rfl⟩, fun rnd => ?_⟩
  · exact fun g j hg hj => (reset_byteAt _).trans (unlistedByte_font g j hg hj)
  · exact fun q hq => (reset_byteAt q).trans (unlistedByte_outside_font hq)
  · exact unknownWordFaults State.reset rnd 0x0000 rfl rfl reset_fetch (by decide)

/-! ## The end of a run (R289) -/

/-- A PC that can fetch fits the 12 bits of an address operand. -/
theorem addrOperand_setWidth {pc : Word} (h : pc.toNat ≤ 0xFFE) : addrOperand (pc.setWidth 12) = pc :=
  BitVec.eq_of_toNat_eq (by rw [addrOperand_toNat, BitVec.toNat_setWidth, Nat.mod_eq_of_lt (by omega)])

theorem perform_cycle_self_jump {s : State} (hh : s.halted = false) (ha : s.awaiting = false) (hpc : s.pc.toNat ≤ 0xFFE)
    (hf : s.fetch = some (wordNNN 0x1 (s.pc.setWidth 12))) (rnd : Byte) :
    perform (.cycle rnd) s = .next { s with rnd := rnd, resp := .ok } := by
  have hruns : s.Runs (.jp (s.pc.setWidth 12)) := ⟨hh, ha, _, hf, decode_encode (.jp (s.pc.setWidth 12))⟩
  obtain ⟨t, ht, hp⟩ := perform_cycle_runs hruns rnd
  obtain rfl : { s with rnd := rnd } = t := by
    cases ht
    rw [addrOperand_setWidth hpc]
    rfl
  rw [hp, State.cycleResponse, if_neg (by simp [hh])]
  rfl

/-- Where a run has ended, a CYCLE writes its two ports only. -/
theorem perform_cycle_of_runEnded {s : State} (h : s.RunEnded) (rnd : Byte) :
    ∃ r, perform (.cycle rnd) s = .next { s with rnd := rnd, resp := r } := by
  obtain hh | hh := Bool.eq_false_or_eq_true s.halted
  · exact ⟨_, runCycle_halted hh rnd⟩
  · obtain ⟨ha, hpc, hf⟩ := h.resolve_left (by simp [hh])
    exact ⟨.ok, perform_cycle_self_jump hh ha hpc hf rnd⟩

/-- Settles O53: the end of a run does not read the ports. -/
theorem endedRunStaysEnded : Obligations.EndedRunStaysEnded := by
  intro s rnd h
  obtain ⟨r, hr⟩ := perform_cycle_of_runEnded h rnd
  exact ⟨_, hr, h, rfl⟩

end Sys2Proof.Machine
end
